-- ==== Sys2Proof/Word.lean ====
section
/-! DEFINITION. The word types: a byte, the 64-bit word of the general registers and of linear
addresses, the 512-bit vector register, and the binary formats' widths. Bit 0 is the least
significant bit (00_scope.md R7). -/

namespace Sys2Proof

/-- One byte of memory or of an instruction (R48). -/
abbrev Byte := BitVec 8

/-- A general register, a linear address, or a double-precision element (R20, R48, R100). -/
abbrev Word64 := BitVec 64

/-- A single-precision element (R101). -/
abbrev Single := BitVec 32

/-- A vector register of `MAX_VL` = 512 bits (R10). -/
abbrev Zmm := BitVec 512

end Sys2Proof
end

