-- ==== Sys2Proof/Config.lean ====
section
/-! DEFINITION. The implementation parameters of 00_scope.md R6 as plain data, and the free values
(the flag set of `XM_FLAG_POLICY = AnyBetween`, a data breakpoint's match). -/

namespace Sys2Proof

/-- The operating mode (R6 `MODE`; R193 for the last two). System-management mode is out of scope
(R5). -/
inductive Mode where
  | long64
  | compat32
  | prot32
  | real
  | v86
  deriving DecidableEq, Repr

/-- Effective-address size `A` (R80, R82). -/
inductive AddrSize where
  | a16
  | a32
  | a64
  deriving DecidableEq, Repr

/-- A vector length (R72), also the type of `MAX_VL` (R6). -/
inductive VecLen where
  | v128
  | v256
  | v512
  deriving DecidableEq, Repr

/-- `VL` in bits (R72). -/
def VecLen.bits : VecLen → Nat
  | .v128 => 128
  | .v256 => 256
  | .v512 => 512

/-- `KL`, the number of elements and of mask bits used (R72). -/
def VecLen.kl : VecLen → Nat
  | .v128 => 2
  | .v256 => 4
  | .v512 => 8

/-- Which MXCSR status flags a trapping execution records (R6 `XM_FLAG_POLICY`, R120). -/
inductive XmPolicy where
  | prePost
  | anyBetween
  deriving DecidableEq, Repr

/-- What a region of linear addresses does to a read: the data form of the oracle `MemFault`
(R47, R197; log 5). -/
inductive RegionKind where
  /-- Outside the segment limit, or the segment is not readable, or a null selector: `#SS(0)`
  through SS, `#GP(0)` otherwise (R197), in every mode (log 30). -/
  | segment
  /-- The page denies the read at CPL 3 and, or, at CPL 0 to 2: `#PF(fc)`. `present` is bit 0 of
  `fc`; bits 1 and 2 are fixed by the access; `other` supplies the remaining bits (R197). -/
  | page (present deniesUser deniesSupervisor : Bool) (other : BitVec 32)
  /-- Memory whose reads have side effects: no meaning (R46). -/
  | device
  deriving DecidableEq, Repr

/-- `size` bytes of linear addresses from `base`. -/
structure Region where
  base : Nat
  size : Nat
  kind : RegionKind
  deriving DecidableEq, Repr

/-- The parameters of R6. They are read-only: no step changes them. -/
structure Config where
  maxVl : VecLen
  hasSse2 : Bool
  hasAvx : Bool
  hasAvx512f : Bool
  hasAvx512vl : Bool
  ftzFlushesExactTiny : Bool
  evexFaultSuppression : Bool
  xmPolicy : XmPolicy
  memFault : List Region
  deriving DecidableEq, Repr

/-- The values R6 takes (D3, D4, D11, D12, D13). DESIGN CHOICE, unsafe for a claim that rests on one of
them (log 8); no faulting region (log 5). -/
def Config.taken : Config where
  maxVl := .v512
  hasSse2 := true
  hasAvx := true
  hasAvx512f := true
  hasAvx512vl := true
  ftzFlushesExactTiny := true
  evexFaultSuppression := true
  xmPolicy := .prePost
  memFault := []

/-- The free choice of status flags under `AnyBetween` (R120), one for each value of the model's
counter. Nothing constrains it (log 9). -/
opaque Config.freeFlags : Nat → BitVec 6

/-- Whether an armed data breakpoint matches a memory operand, one answer for each value of the model's
counter. The spec gives neither the breakpoint addresses nor the match, so nothing constrains it
(R214; log 16). -/
opaque Config.breakpointHit : Nat → Bool

end Sys2Proof
end

