-- ==== Sys2Proof/Syntax.lean ====
section
/-! DEFINITION. The instruction's syntax: prefixes, payload fields, the ModRM operand, and `Instr`
with one constructor for each row of spec/opcode_table.json. Every bit of an encoding has a place
in the term. -/

namespace Sys2Proof

/-- Rounding control, `MXCSR.RC` or `EVEX.RC` (R102). -/
inductive Rounding where
  | nearest
  | down
  | up
  | zero
  deriving DecidableEq, Repr

/-- Segment registers, numbers 0 to 5 (R21). -/
inductive Seg where
  | es
  | cs
  | ss
  | ds
  | fs
  | gs
  deriving DecidableEq, Repr

/-- A byte before the opcode that is not part of a VEX or EVEX prefix (R62, R63). -/
inductive Prefix where
  /-- 66: the mandatory prefix of F-SSE. -/
  | opSize
  /-- F2. -/
  | repne
  /-- F3. -/
  | rep
  /-- F0. -/
  | lock
  /-- 26, 2E, 36, 3E, 64, 65. -/
  | seg (r : Seg)
  /-- 67. -/
  | addrSize
  /-- 40 to 4F in 64-bit mode: `0100 W R X B`. -/
  | rex (w r x b : Bool)
  deriving DecidableEq, Repr

/-- Displacement after ModRM/SIB under 32- or 64-bit addressing (R78). -/
inductive Disp where
  | none
  | disp8 (d : BitVec 8)
  | disp32 (d : BitVec 32)
  deriving DecidableEq, Repr

/-- Displacement under 16-bit addressing (R82). -/
inductive Disp16 where
  | none
  | disp8 (d : BitVec 8)
  | disp16 (d : BitVec 16)
  deriving DecidableEq, Repr

/-- Addressing form of a memory operand, as encoded (R77 to R82). -/
inductive Addr where
  /-- `mod != 11b`, `rm != 100b`, not the disp32-only case. -/
  | base (rm : BitVec 3) (d : Disp)
  /-- `mod = 00b`, `rm = 101b`: RIP-relative in 64-bit mode, absolute otherwise. -/
  | dispOnly (d : BitVec 32)
  /-- A SIB byte with a base register. -/
  | sib (scale : BitVec 2) (index base : BitVec 3) (d : Disp)
  /-- A SIB byte with `base = 101b` under `mod = 00b`: no base register. -/
  | sibNoBase (scale : BitVec 2) (index : BitVec 3) (d : BitVec 32)
  /-- 16-bit addressing (R82). -/
  | base16 (rm : BitVec 3) (d : Disp16)
  /-- 16-bit addressing, `mod = 00b`, `rm = 110b`: absolute disp16. -/
  | dispOnly16 (d : BitVec 16)
  deriving DecidableEq, Repr

/-- The ModRM.r/m operand: a register (`mod = 11b`) or memory (R76). -/
inductive Rm where
  | reg (n : BitVec 3)
  | mem (a : Addr)
  deriving DecidableEq, Repr

/-- The source of a plain EVEX form: register with `b = 0`, memory with `b = 0`, memory with
`b = 1` (broadcast). A register with `b = 1` is the `{er}` row (R73). -/
inductive EvexRm where
  | reg (n : BitVec 3)
  | mem (a : Addr)
  | bcst (a : Addr)
  deriving DecidableEq, Repr

/-- Payload of the 2-byte VEX prefix: `r` true (un-inverted), `vvvv` as stored (R64). -/
structure Vex2 where
  r : Bool
  vvvv : BitVec 4
  deriving DecidableEq, Repr

/-- Payload of the 3-byte VEX prefix: `r`, `x`, `b` true, `vvvv` as stored (R65). -/
structure Vex3 where
  r : Bool
  x : Bool
  b : Bool
  w : Bool
  vvvv : BitVec 4
  deriving DecidableEq, Repr

/-- Payload of the EVEX prefix but for `L'L` and `b`, which the constructors of `Instr` hold.
`r`, `x`, `b`, `rHi` (R') are true; `vvvv` and `vHi` (V') are as stored; `res` is P0 bits 3:2 and
`fix` P1 bit 2 (R70). -/
structure Evex where
  r : Bool
  x : Bool
  b : Bool
  rHi : Bool
  res : BitVec 2
  w : Bool
  vvvv : BitVec 4
  fix : Bool
  z : Bool
  vHi : Bool
  aaa : BitVec 3
  deriving DecidableEq, Repr

/-- One constructor for each row of spec/opcode_table.json. `pfx` are the prefixes and REX bytes in
order, `reg` is ModRM.reg, `rm` the ModRM.r/m operand. -/
inductive Instr where
  /-- F-SSE, `66 0F 5A /r` (R140). -/
  | cvtpd2ps (pfx : List Prefix) (reg : BitVec 3) (rm : Rm)
  /-- F-VEX128 in its 2-byte spelling (R150). -/
  | vcvtpd2psVex128C5 (pfx : List Prefix) (v : Vex2) (reg : BitVec 3) (rm : Rm)
  /-- F-VEX128 in its 3-byte spelling (R150). -/
  | vcvtpd2psVex128C4 (pfx : List Prefix) (v : Vex3) (reg : BitVec 3) (rm : Rm)
  /-- F-VEX256 in its 2-byte spelling (R151). -/
  | vcvtpd2psVex256C5 (pfx : List Prefix) (v : Vex2) (reg : BitVec 3) (rm : Rm)
  /-- F-VEX256 in its 3-byte spelling (R151). -/
  | vcvtpd2psVex256C4 (pfx : List Prefix) (v : Vex3) (reg : BitVec 3) (rm : Rm)
  /-- F-EVEX128 (R166). -/
  | vcvtpd2psEvex128 (pfx : List Prefix) (e : Evex) (reg : BitVec 3) (rm : EvexRm)
  /-- F-EVEX256 (R167). -/
  | vcvtpd2psEvex256 (pfx : List Prefix) (e : Evex) (reg : BitVec 3) (rm : EvexRm)
  /-- F-EVEX512 without embedded rounding (R168). `lenRes` is true when `L'L` is 11b, the reserved
  length (R85; log 12). -/
  | vcvtpd2psEvex512 (pfx : List Prefix) (e : Evex) (lenRes : Bool) (reg : BitVec 3) (rm : EvexRm)
  /-- F-EVEX512 with embedded rounding: register source, `b = 1`, `rc = L'L` (R169). -/
  | vcvtpd2psEvex512Er (pfx : List Prefix) (e : Evex) (rc : Rounding) (reg : BitVec 3) (src : BitVec 3)
  deriving DecidableEq, Repr

end Sys2Proof
end

