-- ==== Sys2Proof/Decode.lean ====
section
/-! DEFINITION. The decoder, total on any bytes (30_encoding.md R60 to R88), the encoder, and the
instruction's length. The decoder answers an instruction, or a rejection by name, or that the bytes
ran out. -/

namespace Sys2Proof

/-- Why a byte string is not this instruction (R84, R5). -/
inductive Reject where
  /-- `0F 5A` with none of 66, F2, F3. -/
  | cvtps2pd
  /-- `0F 5A` with F3. -/
  | cvtss2sd
  /-- `0F 5A` with F2. -/
  | cvtsd2ss
  /-- VEX or EVEX with `pp` other than 01b. -/
  | otherPp
  /-- VEX or EVEX with an opcode map other than 0F. -/
  | otherMap
  /-- An opcode byte other than 5A. -/
  | otherOpcode
  /-- C4 or C5 outside 64-bit mode with bits 7:6 of the next byte not 11b: `LES`, `LDS` (R68). -/
  | lesLds
  deriving DecidableEq, Repr

/-- The decoder's answer. -/
inductive Decoded where
  | instr (i : Instr)
  /-- The bytes ran out before the instruction's last byte. -/
  | truncated
  | notThis (why : Reject)
  deriving DecidableEq, Repr

/-! ### Bit fields of single bytes -/

def modrmByte (mod : BitVec 2) (reg rm : BitVec 3) : Byte := mod ++ reg ++ rm

def sibByte (scale : BitVec 2) (index base : BitVec 3) : Byte := scale ++ index ++ base

/-- `R̄ v̄3 v̄2 v̄1 v̄0 L p1 p0` (R64), `pp` = 01b. -/
def vex2Byte (v : Vex2) (l : Bool) : Byte :=
  BitVec.ofBool (!v.r) ++ v.vvvv ++ BitVec.ofBool l ++ 0b01#2

/-- `R̄ X̄ B̄ m4 m3 m2 m1 m0` (R65), map 0F. -/
def vex3Byte1 (v : Vex3) : Byte :=
  BitVec.ofBool (!v.r) ++ BitVec.ofBool (!v.x) ++ BitVec.ofBool (!v.b) ++ 0b00001#5

/-- `W v̄3 v̄2 v̄1 v̄0 L p1 p0` (R65), `pp` = 01b. -/
def vex3Byte2 (v : Vex3) (l : Bool) : Byte :=
  BitVec.ofBool v.w ++ v.vvvv ++ BitVec.ofBool l ++ 0b01#2

/-- `R̄ X̄ B̄ R̄' 0 0 m1 m0` (R70), map 0F. -/
def evexP0 (e : Evex) : Byte :=
  BitVec.ofBool (!e.r) ++ BitVec.ofBool (!e.x) ++ BitVec.ofBool (!e.b) ++ BitVec.ofBool (!e.rHi) ++
    e.res ++ 0b01#2

/-- `W v̄3 v̄2 v̄1 v̄0 1 p1 p0` (R70), `pp` = 01b. -/
def evexP1 (e : Evex) : Byte :=
  BitVec.ofBool e.w ++ e.vvvv ++ BitVec.ofBool e.fix ++ 0b01#2

/-- `z L' L b V̄' a2 a1 a0` (R70). -/
def evexP2 (e : Evex) (ll : BitVec 2) (b : Bool) : Byte :=
  BitVec.ofBool e.z ++ ll ++ BitVec.ofBool b ++ BitVec.ofBool e.vHi ++ e.aaa

/-- The encoding of a rounding mode in `MXCSR.RC` and in `EVEX.RC` (R73, R102). -/
def roundingBits : Rounding → BitVec 2
  | .nearest => 0b00
  | .down => 0b01
  | .up => 0b10
  | .zero => 0b11

def roundingOfBits (v : BitVec 2) : Rounding :=
  if v = 0b00 then .nearest else if v = 0b01 then .down else if v = 0b10 then .up else .zero

/-! ### Prefixes -/

/-- A prefix's byte (R62, R63). -/
def prefixByte : Prefix → Byte
  | .opSize => 0x66
  | .repne => 0xF2
  | .rep => 0xF3
  | .lock => 0xF0
  | .seg .es => 0x26
  | .seg .cs => 0x2E
  | .seg .ss => 0x36
  | .seg .ds => 0x3E
  | .seg .fs => 0x64
  | .seg .gs => 0x65
  | .addrSize => 0x67
  | .rex w r x b =>
    0b0100#4 ++ BitVec.ofBool w ++ BitVec.ofBool r ++ BitVec.ofBool x ++ BitVec.ofBool b

/-- The legacy prefixes of R62. -/
def legacyPrefix (v : Byte) : Option Prefix :=
  if v = 0x66 then some .opSize
  else if v = 0xF2 then some .repne
  else if v = 0xF3 then some .rep
  else if v = 0xF0 then some .lock
  else if v = 0x26 then some (.seg .es)
  else if v = 0x2E then some (.seg .cs)
  else if v = 0x36 then some (.seg .ss)
  else if v = 0x3E then some (.seg .ds)
  else if v = 0x64 then some (.seg .fs)
  else if v = 0x65 then some (.seg .gs)
  else if v = 0x67 then some .addrSize
  else none

/-- A byte read as a prefix: a legacy prefix in every mode, 40 to 4F as REX in 64-bit mode only
(R63). -/
def prefixOf (m : Mode) (v : Byte) : Option Prefix :=
  match legacyPrefix v with
  | some p => some p
  | none =>
    if m = .long64 ∧ v.extractLsb' 4 4 = 0b0100 then some (.rex v[3] v[2] v[1] v[0]) else none

/-- Scan prefixes until a byte that is not one (R87). -/
def takePrefixes (m : Mode) : List Byte → List Prefix × List Byte
  | [] => ([], [])
  | v :: bs =>
    match prefixOf m v with
    | some p => (p :: (takePrefixes m bs).1, (takePrefixes m bs).2)
    | none => ([], v :: bs)

/-- The address size: the mode's own, or the other one under a 67 prefix (R62, R80, R82). The
16-bit default of real-address and virtual-8086 mode is PRESUMED (log 7). -/
def addrSizeOf (m : Mode) (pfx : List Prefix) : AddrSize :=
  match m, pfx.contains .addrSize with
  | .long64, false => .a64
  | .long64, true => .a32
  | .compat32, false => .a32
  | .compat32, true => .a16
  | .prot32, false => .a32
  | .prot32, true => .a16
  | .real, false => .a16
  | .real, true => .a32
  | .v86, false => .a16
  | .v86, true => .a32

/-! ### ModRM, SIB, displacement -/

/-- Displacements are little-endian (R79). -/
def le16 (b0 b1 : Byte) : BitVec 16 := b1 ++ b0

def le32 (b0 b1 b2 b3 : Byte) : BitVec 32 := b3 ++ b2 ++ b1 ++ b0

def takeDisp32 : List Byte → Option (BitVec 32)
  | b0 :: b1 :: b2 :: b3 :: _ => some (le32 b0 b1 b2 b3)
  | _ => none

def takeDisp16 : List Byte → Option (BitVec 16)
  | b0 :: b1 :: _ => some (le16 b0 b1)
  | _ => none

def takeDisp8 : List Byte → Option (BitVec 8)
  | b0 :: _ => some b0
  | _ => none

/-- The displacement that `mod` asks for, for the forms other than the disp-only ones (R78). -/
def dispOf (mod : BitVec 2) (bs : List Byte) : Option Disp :=
  if mod = 0b00 then some .none
  else if mod = 0b01 then (takeDisp8 bs).map .disp8
  else (takeDisp32 bs).map .disp32

def disp16Of (mod : BitVec 2) (bs : List Byte) : Option Disp16 :=
  if mod = 0b00 then some .none
  else if mod = 0b01 then (takeDisp8 bs).map .disp8
  else (takeDisp16 bs).map .disp16

/-- The memory operand under 32- or 64-bit addressing (R77, R78). -/
def decodeAddr (mod : BitVec 2) (rm : BitVec 3) (bs : List Byte) : Option Addr :=
  if rm = 0b100 then
    match bs with
    | [] => none
    | sib :: bs =>
      if mod = 0b00 ∧ sib.extractLsb' 0 3 = 0b101 then
        (takeDisp32 bs).map (.sibNoBase (sib.extractLsb' 6 2) (sib.extractLsb' 3 3))
      else
        (dispOf mod bs).map
          (.sib (sib.extractLsb' 6 2) (sib.extractLsb' 3 3) (sib.extractLsb' 0 3))
  else if mod = 0b00 ∧ rm = 0b101 then (takeDisp32 bs).map .dispOnly
  else (dispOf mod bs).map (.base rm)

/-- The memory operand under 16-bit addressing (R82). -/
def decodeAddr16 (mod : BitVec 2) (rm : BitVec 3) (bs : List Byte) : Option Addr :=
  if mod = 0b00 ∧ rm = 0b110 then (takeDisp16 bs).map .dispOnly16
  else (disp16Of mod bs).map (.base16 rm)

/-- ModRM with what follows it: ModRM.reg and the r/m operand (R76). -/
def decodeModRm (sz : AddrSize) : List Byte → Option (BitVec 3 × Rm)
  | [] => none
  | v :: bs =>
    if v.extractLsb' 6 2 = 0b11 then some (v.extractLsb' 3 3, .reg (v.extractLsb' 0 3))
    else
      ((if sz = .a16 then decodeAddr16 (v.extractLsb' 6 2) (v.extractLsb' 0 3) bs
        else decodeAddr (v.extractLsb' 6 2) (v.extractLsb' 0 3) bs).map
        (fun a => (v.extractLsb' 3 3, .mem a)))

/-! ### The three encoding families -/

/-- After `0F`: F-SSE, or one of its neighbours; F2 and F3 win over 66 (R61, R84). -/
def decodeSse (m : Mode) (pfx : List Prefix) : List Byte → Decoded
  | [] => .truncated
  | op :: bs =>
    if op ≠ 0x5A then .notThis .otherOpcode
    else if pfx.contains .rep then .notThis .cvtss2sd
    else if pfx.contains .repne then .notThis .cvtsd2ss
    else if !pfx.contains .opSize then .notThis .cvtps2pd
    else
      match decodeModRm (addrSizeOf m pfx) bs with
      | none => .truncated
      | some (reg, rm) => .instr (.cvtpd2ps pfx reg rm)

/-- Outside 64-bit mode C4 and C5 begin a VEX prefix only before a byte with bits 7:6 set (R68, R83
rows 2 to 5). -/
def vexEscapeOk (m : Mode) (v : Byte) : Bool :=
  decide (m = .long64 ∨ v.extractLsb' 6 2 = 0b11)

/-- After `C5` (R64, R66). -/
def decodeVexC5 (m : Mode) (pfx : List Prefix) : List Byte → Decoded
  | [] => .truncated
  | v1 :: bs =>
    if !vexEscapeOk m v1 then .notThis .lesLds
    else if v1.extractLsb' 0 2 ≠ 0b01 then .notThis .otherPp
    else
      match bs with
      | [] => .truncated
      | op :: bs =>
        if op ≠ 0x5A then .notThis .otherOpcode
        else
          match decodeModRm (addrSizeOf m pfx) bs with
          | none => .truncated
          | some (reg, rm) =>
            if v1[2] then .instr (.vcvtpd2psVex256C5 pfx ⟨!v1[7], v1.extractLsb' 3 4⟩ reg rm)
            else .instr (.vcvtpd2psVex128C5 pfx ⟨!v1[7], v1.extractLsb' 3 4⟩ reg rm)

/-- After `C4` (R65, R66). -/
def decodeVexC4 (m : Mode) (pfx : List Prefix) : List Byte → Decoded
  | [] => .truncated
  | v1 :: bs =>
    if !vexEscapeOk m v1 then .notThis .lesLds
    else if v1.extractLsb' 0 5 ≠ 0b00001 then .notThis .otherMap
    else
      match bs with
      | [] => .truncated
      | v2 :: bs =>
        if v2.extractLsb' 0 2 ≠ 0b01 then .notThis .otherPp
        else
          match bs with
          | [] => .truncated
          | op :: bs =>
            if op ≠ 0x5A then .notThis .otherOpcode
            else
              match decodeModRm (addrSizeOf m pfx) bs with
              | none => .truncated
              | some (reg, rm) =>
                if v2[2] then
                  .instr (.vcvtpd2psVex256C4 pfx ⟨!v1[7], !v1[6], !v1[5], v2[7], v2.extractLsb' 3 4⟩ reg rm)
                else
                  .instr (.vcvtpd2psVex128C4 pfx ⟨!v1[7], !v1[6], !v1[5], v2[7], v2.extractLsb' 3 4⟩ reg rm)

/-- The row of an EVEX encoding: a register source with `b = 1` is the `{er}` row whatever `L'L`
is; otherwise `L'L` is the length, and the reserved length 11b is filed under the 512-bit row
(R73, R85; log 12). -/
def evexInstr (pfx : List Prefix) (e : Evex) (ll : BitVec 2) (b : Bool) (reg : BitVec 3) (rm : Rm) : Instr :=
  match rm, b with
  | .reg n, true => .vcvtpd2psEvex512Er pfx e (roundingOfBits ll) reg n
  | .reg n, false => plain (.reg n)
  | .mem a, false => plain (.mem a)
  | .mem a, true => plain (.bcst a)
where
  plain (s : EvexRm) : Instr :=
    if ll = 0b00 then .vcvtpd2psEvex128 pfx e reg s
    else if ll = 0b01 then .vcvtpd2psEvex256 pfx e reg s
    else .vcvtpd2psEvex512 pfx e (decide (ll = 0b11)) reg s

/-- The payload fields of P0, P1, P2 (R70). -/
def evexOf (p0 p1 p2 : Byte) : Evex where
  r := !p0[7]
  x := !p0[6]
  b := !p0[5]
  rHi := !p0[4]
  res := p0.extractLsb' 2 2
  w := p1[7]
  vvvv := p1.extractLsb' 3 4
  fix := p1[2]
  z := p2[7]
  vHi := p2[3]
  aaa := p2.extractLsb' 0 3

/-- After `62` (R70 to R74, R83 rows 6 to 9, which hold in every mode). The reserved bits do not decide whether the bytes are this
instruction; the meaning raises `#UD` on them (R85). -/
def decodeEvex (m : Mode) (pfx : List Prefix) : List Byte → Decoded
  | [] => .truncated
  | p0 :: bs =>
    if p0.extractLsb' 0 2 ≠ 0b01 then .notThis .otherMap
    else
      match bs with
      | [] => .truncated
      | p1 :: bs =>
        if p1.extractLsb' 0 2 ≠ 0b01 then .notThis .otherPp
        else
          match bs with
          | p2 :: op :: bs =>
            if op ≠ 0x5A then .notThis .otherOpcode
            else
              match decodeModRm (addrSizeOf m pfx) bs with
              | none => .truncated
              | some (reg, rm) =>
                .instr (evexInstr pfx (evexOf p0 p1 p2) (p2.extractLsb' 5 2) p2[4] reg rm)
          | _ => .truncated

/-- Decode the bytes at the program counter (R83, R87). -/
def decode (m : Mode) (bytes : List Byte) : Decoded :=
  match (takePrefixes m bytes).2 with
  | [] => .truncated
  | v :: bs =>
    if v = 0x0F then decodeSse m (takePrefixes m bytes).1 bs
    else if v = 0xC5 then decodeVexC5 m (takePrefixes m bytes).1 bs
    else if v = 0xC4 then decodeVexC4 m (takePrefixes m bytes).1 bs
    else if v = 0x62 then decodeEvex m (takePrefixes m bytes).1 bs
    else .notThis .otherOpcode

/-! ### The encoder -/

def encodeDisp : Disp → List Byte
  | .none => []
  | .disp8 d => [d]
  | .disp32 d => [d.extractLsb' 0 8, d.extractLsb' 8 8, d.extractLsb' 16 8, d.extractLsb' 24 8]

def encodeDisp16 : Disp16 → List Byte
  | .none => []
  | .disp8 d => [d]
  | .disp16 d => [d.extractLsb' 0 8, d.extractLsb' 8 8]

/-- `mod` of a displacement (R78). -/
def dispMod : Disp → BitVec 2
  | .none => 0b00
  | .disp8 _ => 0b01
  | .disp32 _ => 0b10

def disp16Mod : Disp16 → BitVec 2
  | .none => 0b00
  | .disp8 _ => 0b01
  | .disp16 _ => 0b10

/-- ModRM, SIB and displacement bytes of a memory operand (R76 to R82). -/
def encodeAddr (reg : BitVec 3) : Addr → List Byte
  | .base rm d => modrmByte (dispMod d) reg rm :: encodeDisp d
  | .dispOnly d => modrmByte 0b00 reg 0b101 :: encodeDisp (.disp32 d)
  | .sib sc i b d => modrmByte (dispMod d) reg 0b100 :: sibByte sc i b :: encodeDisp d
  | .sibNoBase sc i d => modrmByte 0b00 reg 0b100 :: sibByte sc i 0b101 :: encodeDisp (.disp32 d)
  | .base16 rm d => modrmByte (disp16Mod d) reg rm :: encodeDisp16 d
  | .dispOnly16 d => modrmByte 0b00 reg 0b110 :: encodeDisp16 (.disp16 d)

def encodeRm (reg : BitVec 3) : Rm → List Byte
  | .reg n => [modrmByte 0b11 reg n]
  | .mem a => encodeAddr reg a

/-- The EVEX bytes with the `b` bit that the source form fixes (R73). -/
def encodeEvex (e : Evex) (ll : BitVec 2) (reg : BitVec 3) : EvexRm → List Byte
  | .reg n => 0x62 :: evexP0 e :: evexP1 e :: evexP2 e ll false :: 0x5A :: encodeRm reg (.reg n)
  | .mem a => 0x62 :: evexP0 e :: evexP1 e :: evexP2 e ll false :: 0x5A :: encodeRm reg (.mem a)
  | .bcst a => 0x62 :: evexP0 e :: evexP1 e :: evexP2 e ll true :: 0x5A :: encodeRm reg (.mem a)

/-- The bytes from the escape or prefix byte on, as the `bytes` column of spec/opcode_table.json. -/
def encodeBody : Instr → List Byte
  | .cvtpd2ps _ reg rm => 0x0F :: 0x5A :: encodeRm reg rm
  | .vcvtpd2psVex128C5 _ v reg rm => 0xC5 :: vex2Byte v false :: 0x5A :: encodeRm reg rm
  | .vcvtpd2psVex128C4 _ v reg rm => 0xC4 :: vex3Byte1 v :: vex3Byte2 v false :: 0x5A :: encodeRm reg rm
  | .vcvtpd2psVex256C5 _ v reg rm => 0xC5 :: vex2Byte v true :: 0x5A :: encodeRm reg rm
  | .vcvtpd2psVex256C4 _ v reg rm => 0xC4 :: vex3Byte1 v :: vex3Byte2 v true :: 0x5A :: encodeRm reg rm
  | .vcvtpd2psEvex128 _ e reg rm => encodeEvex e 0b00 reg rm
  | .vcvtpd2psEvex256 _ e reg rm => encodeEvex e 0b01 reg rm
  | .vcvtpd2psEvex512 _ e lenRes reg rm => encodeEvex e (if lenRes then 0b11 else 0b10) reg rm
  | .vcvtpd2psEvex512Er _ e rc reg src =>
    0x62 :: evexP0 e :: evexP1 e :: evexP2 e (roundingBits rc) true :: 0x5A :: encodeRm reg (.reg src)

def prefixesOf : Instr → List Prefix
  | .cvtpd2ps pfx _ _ => pfx
  | .vcvtpd2psVex128C5 pfx _ _ _ => pfx
  | .vcvtpd2psVex128C4 pfx _ _ _ => pfx
  | .vcvtpd2psVex256C5 pfx _ _ _ => pfx
  | .vcvtpd2psVex256C4 pfx _ _ _ => pfx
  | .vcvtpd2psEvex128 pfx _ _ _ => pfx
  | .vcvtpd2psEvex256 pfx _ _ _ => pfx
  | .vcvtpd2psEvex512 pfx _ _ _ _ => pfx
  | .vcvtpd2psEvex512Er pfx _ _ _ _ => pfx

/-- The instruction's bytes (R60). -/
def encode (i : Instr) : List Byte := (prefixesOf i).map prefixByte ++ encodeBody i

/-! ### Length (R88) -/

def dispLength : Disp → Nat
  | .none => 0
  | .disp8 _ => 1
  | .disp32 _ => 4

def disp16Length : Disp16 → Nat
  | .none => 0
  | .disp8 _ => 1
  | .disp16 _ => 2

/-- `n_sib + n_disp`. -/
def addrLength : Addr → Nat
  | .base _ d => dispLength d
  | .dispOnly _ => 4
  | .sib _ _ _ d => 1 + dispLength d
  | .sibNoBase _ _ _ => 5
  | .base16 _ d => disp16Length d
  | .dispOnly16 _ => 2

def rmLength : Rm → Nat
  | .reg _ => 0
  | .mem a => addrLength a

def evexRmLength : EvexRm → Nat
  | .reg _ => 0
  | .mem a => addrLength a
  | .bcst a => addrLength a

/-- `ilen = n_legacy_prefixes + n_rex + n_escape + 1 + n_sib + n_disp` (R88). -/
def instrLength (pfx : List Prefix) (nEscape nTail : Nat) : Nat := pfx.length + nEscape + 1 + nTail

def Instr.length : Instr → Nat
  | .cvtpd2ps pfx _ rm => instrLength pfx 2 (rmLength rm)
  | .vcvtpd2psVex128C5 pfx _ _ rm => instrLength pfx 3 (rmLength rm)
  | .vcvtpd2psVex128C4 pfx _ _ rm => instrLength pfx 4 (rmLength rm)
  | .vcvtpd2psVex256C5 pfx _ _ rm => instrLength pfx 3 (rmLength rm)
  | .vcvtpd2psVex256C4 pfx _ _ rm => instrLength pfx 4 (rmLength rm)
  | .vcvtpd2psEvex128 pfx _ _ rm => instrLength pfx 5 (evexRmLength rm)
  | .vcvtpd2psEvex256 pfx _ _ rm => instrLength pfx 5 (evexRmLength rm)
  | .vcvtpd2psEvex512 pfx _ _ _ rm => instrLength pfx 5 (evexRmLength rm)
  | .vcvtpd2psEvex512Er pfx _ _ _ _ => instrLength pfx 5 0

/-! ### Words as spec/opcode_table.json numbers them -/

/-- Byte `t` of a number whose bit 0 is the least significant bit of the first byte. -/
def byteOfNat (w t : Nat) : Byte := BitVec.ofNat 8 (w / 2 ^ (8 * t))

/-- The bytes a table word stands for, zero above `nbits`, 15 in all. The F-SSE row's bytes begin at
`0F`; its constraint asks for a 66 prefix, which is put before them (R61, R83 row 1; log 2). -/
def tableBytes (nbits w : Nat) : List Byte :=
  if byteOfNat (w % 2 ^ nbits) 0 = 0x0F then
    0x66 :: (List.range 14).map (fun t => byteOfNat (w % 2 ^ nbits) t)
  else (List.range 15).map (fun t => byteOfNat (w % 2 ^ nbits) t)

/-- The instruction the decoder reads from a table word, in 64-bit mode, the normative one (D2). -/
def decodeTableWord (nbits w : Nat) : Option Instr :=
  match decode .long64 (tableBytes nbits w) with
  | .instr i => some i
  | _ => none

end Sys2Proof
end

