-- ==== Sys2Proof/Machine/State.lean ====
section
/-! DEFINITION. The machine's state, the exceptions an execution can raise, the reasons a step can
stop, and the state after reset (10_state.md, 60_exceptions.md R190 and R209). -/

namespace Sys2Proof.Machine

/-- A segment register: selector and hidden base (R21). -/
structure SegReg where
  selector : BitVec 16
  base : Word64
  deriving DecidableEq, Repr

/-- The six segment registers (R21). -/
structure Segs where
  es : SegReg
  cs : SegReg
  ss : SegReg
  ds : SegReg
  fs : SegReg
  gs : SegReg
  deriving DecidableEq, Repr

/-- The x87 state; the MMX registers are the low 64 bits of `st` (R25). Its layout is PRESUMED
(log 22). No form reads or writes it. -/
structure X87 where
  st : Vector (BitVec 80) 8
  fcw : BitVec 16
  fsw : BitVec 16
  ftw : BitVec 16
  fip : Word64
  fdp : Word64
  fop : BitVec 11
  deriving DecidableEq, Repr

/-- Byte-addressable memory as (address, byte) pairs in one canonical form (R48, R233). -/
abbrev Memory := List Host.Cell

/-- An exception of R190, or the debug trap of R214. -/
inductive Exn where
  /-- `#UD`, invalid opcode. -/
  | ud
  /-- `#NM`, device not available. -/
  | nm
  /-- `#SS(0)`, stack-segment fault. -/
  | ss
  /-- `#GP(0)`, general protection. -/
  | gp
  /-- `#PF(fc)`, page fault at a linear address. -/
  | pf (addr : Word64) (fc : BitVec 32)
  /-- `#AC(0)`, alignment check. -/
  | ac
  /-- `#XM`, SIMD floating-point exception. -/
  | xm
  /-- `#DB`, the single-step or data-breakpoint trap (R214; log 16, log 17). -/
  | db
  deriving DecidableEq, Repr

/-- An exception raised and not yet delivered: its vector and error code (R190) and what R209 says
the delivery saves, `SS`, `RSP`, `RFLAGS`, `CS`, `RIP`; `gate` is the address of the IDT entry in
64-bit mode (R209; log 1). -/
structure Raised where
  vector : BitVec 8
  errorCode : Option (BitVec 32)
  ss : BitVec 16
  rsp : Word64
  rflags : Word64
  cs : BitVec 16
  rip : Word64
  gate : Option Word64
  deriving DecidableEq, Repr

/-- Every piece of state the spec gives the machine (INVENTORY.md, State). -/
structure State where
  /-- `ZMM[0 .. 31]`; XMM and YMM are their low bits (R10, R11). -/
  zmm : Vector Zmm 32
  /-- Opmask registers (R13). -/
  k : Vector Word64 8
  /-- R15. -/
  mxcsr : BitVec 32
  /-- `x[0 .. 15]` (R20). -/
  gpr : Vector Word64 16
  /-- The instruction pointer (R22). -/
  rip : Word64
  segs : Segs
  /-- CS.L (log 6). -/
  csL : Bool
  rflags : Word64
  cr0 : Word64
  cr2 : Word64
  cr4 : Word64
  xcr0 : Word64
  efer : Word64
  dr7 : Word64
  idtrBase : Word64
  x87 : X87
  mem : Memory
  /-- The exception raised and not yet delivered (R209; log 1). -/
  raised : Option Raised
  /-- The parameters of R6, read-only (log 8). -/
  cfg : Config
  /-- The model's own counter, which indexes `Config.freeFlags` and `Config.breakpointHit` (log 9,
  log 16). -/
  freeCount : Nat
  deriving DecidableEq, Repr

/-- Why a step stops with a fault. -/
inductive Fault where
  /-- Raised by `step`, in a state whose exception is not yet delivered: R209's terminal outcome
  `Fault(vector, errcode)`. Safe: the spec does not say what follows (R5). -/
  | exception (vector : BitVec 8) (errorCode : Option (BitVec 32))
  deriving DecidableEq, Repr

/-- Why a step has no meaning. -/
inductive Refusal where
  /-- Raised by `exec` for an instruction whose meaning is not written. Safe. No arm uses it. -/
  | notModelled (mnemonic : String)
  /-- Raised by `step`: the bytes encode another instruction, which the spec does not define (R84).
  Safe. -/
  | notThisInstruction (why : Reject)
  /-- Raised by the memory forms: the operand lies in memory with read side effects (R46). Safe. -/
  | deviceMemory
  deriving DecidableEq, Repr

/-- A segment register with the selector and base zero. -/
def SegReg.zero : SegReg := { selector := 0, base := 0 }

/-- The x87 state after RESET: the family's values, PRESUMED (log 3). -/
def X87.reset : X87 where
  st := Vector.replicate 8 0
  fcw := 0x0040
  fsw := 0
  ftw := 0x5555
  fip := 0
  fdp := 0
  fop := 0

/-- The segment registers after RESET: CS base as R30 says, the rest PRESUMED (log 3). -/
def Segs.reset : Segs where
  es := SegReg.zero
  cs := { selector := 0xF000, base := 0xFFFF0000 }
  ss := SegReg.zero
  ds := SegReg.zero
  fs := SegReg.zero
  gs := SegReg.zero

/-- The machine after RESET (R30). RDX holds the processor signature (PRESUMED value), and what R30
does not list has the family's value (PRESUMED, log 3). -/
def State.reset : State where
  zmm := Vector.replicate 32 0
  k := Vector.replicate 8 0
  mxcsr := 0x1F80
  gpr := (Vector.replicate 16 0).set 2 0x000806F8
  rip := 0xFFF0
  segs := Segs.reset
  csL := false
  rflags := 2
  cr0 := 0x60000010
  cr2 := 0
  cr4 := 0
  xcr0 := 1
  efer := 0
  dr7 := 0x400
  idtrBase := 0
  x87 := X87.reset
  mem := []
  raised := none
  cfg := Config.taken
  freeCount := 0

end Sys2Proof.Machine
end

