-- ==== Sys2Proof/Machine/Flags.lean ====
section
/-! DEFINITION. The fields of MXCSR and the flag computation (10_state.md R15, R16). A set of
conditions is a `BitVec 6` in the order of MXCSR[5:0]: IE, DE, ZE, OE, UE, PE. -/

namespace Sys2Proof.Machine

def flagIE : BitVec 6 := 0b000001
def flagDE : BitVec 6 := 0b000010
def flagOE : BitVec 6 := 0b001000
def flagUE : BitVec 6 := 0b010000
def flagPE : BitVec 6 := 0b100000

/-- `MXCSR.DAZ`. -/
def mxDaz (v : BitVec 32) : Bool := v[6]
/-- `MXCSR[12:7]`, the masks IM, DM, ZM, OM, UM, PM. -/
def mxMasks (v : BitVec 32) : BitVec 6 := v.extractLsb' 7 6
/-- `MXCSR.OM`. -/
def mxOm (v : BitVec 32) : Bool := v[10]
/-- `MXCSR.UM`. -/
def mxUm (v : BitVec 32) : Bool := v[11]
/-- `MXCSR.RC` (D0's `MXCSR.RM`, 90_conflicts.md C11). -/
def mxRc (v : BitVec 32) : Rounding := roundingOfBits (v.extractLsb' 13 2)
/-- `MXCSR.FTZ`. -/
def mxFtz (v : BitVec 32) : Bool := v[15]

/-- `MXCSR[5:0] <- MXCSR[5:0] OR flags` (R16). -/
def mxOr (v : BitVec 32) (flags : BitVec 6) : BitVec 32 := v ||| flags.setWidth 32

/-- The conditions of a set whose mask bit is 0 (R15, R120). -/
def mxUnmasked (v : BitVec 32) (flags : BitVec 6) : BitVec 6 := flags &&& ~~~(mxMasks v)

end Sys2Proof.Machine
end

