-- ==== Sys2Proof/Machine/Convert.lean ====
section
/-! DEFINITION. The conversion primitive and SIMD floating-point exception resolution
(40_conversion_numerics.md R100 to R123). Arithmetic is exact, on naturals and integers, and narrows
at the end. -/

namespace Sys2Proof.Machine

/-- Whether a nonzero discarded part `lo` of `2^d` rounds the magnitude up (R103). -/
def roundsUp (rc : Rounding) (s : Bool) (hi lo half : Nat) : Bool :=
  match rc with
  | .nearest => decide (lo > half ∨ (lo = half ∧ hi % 2 = 1))
  | .down => s
  | .up => !s
  | .zero => false

/-- `RoundInt(m, p, rc, s)` (R103): the magnitude `m * 2^p` rounded to an integer, and whether it
was inexact. -/
def roundInt (m : Nat) (p : Int) (rc : Rounding) (s : Bool) : Nat × Bool :=
  match p with
  | .ofNat k => (m * 2 ^ k, false)
  | .negSucc k =>
    if m % 2 ^ (k + 1) = 0 then (m / 2 ^ (k + 1), false)
    else
      (m / 2 ^ (k + 1) +
        (if roundsUp rc s (m / 2 ^ (k + 1)) (m % 2 ^ (k + 1)) (2 ^ k) then 1 else 0), true)

/-- What `Cvt` reads besides its source (R110), and the parameter `FTZ_FLUSHES_EXACT_TINY` (R6). -/
structure CvtEnv where
  rc : Rounding
  daz : Bool
  ftz : Bool
  om : Bool
  um : Bool
  flushExact : Bool
  deriving DecidableEq, Repr

/-- What `Cvt` returns (R110): the masked-response result and the two condition sets. -/
structure Converted where
  r : Single
  pre : BitVec 6
  post : BitVec 6
  deriving DecidableEq, Repr

/-- `s :: mag`. -/
def signed (s : Bool) (mag : BitVec 31) : Single := BitVec.ofBool s ++ mag

/-- Infinity's magnitude, `11111111b :: 0^23` (R101). -/
def infMag : BitVec 31 := 0x7F800000

/-- The largest finite magnitude, `11111110b :: 1^23` (R101). -/
def maxMag : BitVec 31 := 0x7F7FFFFF

/-- The set `{PE}` if `c`, else empty. -/
def peIf (c : Bool) : BitVec 6 := if c then flagPE else 0

/-- The masked overflow result (R110, R113). -/
def overflowMag (rc : Rounding) (s : Bool) : BitVec 31 :=
  match rc with
  | .nearest => infMag
  | .zero => maxMag
  | .down => if s then infMag else maxMag
  | .up => if s then maxMag else infMag

/-- The exponent `E = floor(log2 (m * 2^q))` (R110). -/
def binade (m : Nat) (q : Int) : Int := (Nat.log2 m : Int) + q

/-- `(n1, in1)` of R110: rounding to 24 bits with unbounded exponent. -/
def round24 (m : Nat) (q : Int) (rc : Rounding) (s : Bool) : Nat × Bool :=
  roundInt m (q - (binade m q - 23)) rc s

/-- `E1` of R110: the exponent after a carry into the next binade. -/
def roundedExp (m : Nat) (q : Int) (rc : Rounding) (s : Bool) : Int :=
  if (round24 m q rc s).1 = 2 ^ 24 then binade m q + 1 else binade m q

/-- `n1` of R110 after that carry. -/
def roundedSig (m : Nat) (q : Int) (rc : Rounding) (s : Bool) : Nat :=
  if (round24 m q rc s).1 = 2 ^ 24 then 2 ^ 23 else (round24 m q rc s).1

/-- Overflow (R113). -/
def cvtOverflow (s : Bool) (env : CvtEnv) (pre : BitVec 6) (in1 : Bool) : Converted where
  r := signed s (overflowMag env.rc s)
  pre := pre
  post := flagOE ||| peIf (env.om || in1)

/-- A tiny result (R114). With `FTZ_FLUSHES_EXACT_TINY` false only an inexact one is flushed
(log 10). -/
def cvtTiny (s : Bool) (m : Nat) (q : Int) (env : CvtEnv) (pre : BitVec 6) (in1 : Bool) : Converted :=
  let t := roundInt m (q + 149) env.rc s
  if !env.um then { r := signed s (BitVec.ofNat 31 t.1), pre := pre, post := flagUE ||| peIf in1 }
  else if env.ftz && (env.flushExact || t.2) then
    { r := signed s 0, pre := pre, post := flagUE ||| flagPE }
  else
    { r := signed s (BitVec.ofNat 31 t.1), pre := pre, post := if t.2 then flagUE ||| flagPE else 0 }

/-- A normal result: `s :: (E1 + 127) :: n1[22:0]`. -/
def cvtNormal (s : Bool) (e1 : Int) (n1 : Nat) (pre : BitVec 6) (in1 : Bool) : Converted where
  r := signed s (BitVec.ofNat 8 (e1 + 127).toNat ++ BitVec.ofNat 23 n1)
  pre := pre
  post := peIf in1

/-- A finite nonzero source of magnitude `m * 2^q` (R110). -/
def cvtFinite (s : Bool) (m : Nat) (q : Int) (env : CvtEnv) (pre : BitVec 6) : Converted :=
  if roundedExp m q env.rc s > 127 then cvtOverflow s env pre (round24 m q env.rc s).2
  else if roundedExp m q env.rc s < -126 then cvtTiny s m q env pre (round24 m q env.rc s).2
  else cvtNormal s (roundedExp m q env.rc s) (roundedSig m q env.rc s) pre (round24 m q env.rc s).2

/-- The fields of a double-precision value (R100). -/
def dblSign (x : Word64) : Bool := x[63]
def dblExp (x : Word64) : BitVec 11 := x.extractLsb' 52 11
def dblFrac (x : Word64) : BitVec 52 := x.extractLsb' 0 52

/-- `Cvt` (R110 to R116). -/
def cvt (x : Word64) (env : CvtEnv) : Converted :=
  if dblExp x = 2047 then
    if dblFrac x ≠ 0 then
      { r := signed (dblSign x) (0xFF#8 ++ 0b1#1 ++ (dblFrac x).extractLsb' 29 22)
        pre := if (dblFrac x)[51] then 0 else flagIE
        post := 0 }
    else { r := signed (dblSign x) infMag, pre := 0, post := 0 }
  else if dblExp x = 0 then
    if dblFrac x = 0 ∨ env.daz then { r := signed (dblSign x) 0, pre := 0, post := 0 }
    else cvtFinite (dblSign x) (dblFrac x).toNat (-1074) env flagDE
  else
    cvtFinite (dblSign x) (2 ^ 52 + (dblFrac x).toNat) (((dblExp x).toNat : Int) - 1075) env 0

/-! ### From lanes to one outcome (R120 to R122) -/

/-- Rounding mode, DAZ, FTZ and the two masks as an execution uses them: MXCSR's without embedded
rounding; with it the prefix's mode and all exceptions masked (R102, R120, R121). -/
def cvtEnv (flushExact : Bool) (mxcsr : BitVec 32) (er : Option Rounding) : CvtEnv :=
  match er with
  | none => ⟨mxRc mxcsr, mxDaz mxcsr, mxFtz mxcsr, mxOm mxcsr, mxUm mxcsr, flushExact⟩
  | some rc => ⟨rc, mxDaz mxcsr, mxFtz mxcsr, true, true, flushExact⟩

/-- Convert the active lanes; an inactive one is `none` and is not converted (R122). -/
def convertLanes (env : CvtEnv) (lanes : List (Option Word64)) : List (Option Converted) :=
  lanes.map (fun l => l.map (fun x => cvt x env))

/-- `PRE` (R120). -/
def preOf : List (Option Converted) → BitVec 6
  | [] => 0
  | none :: cs => preOf cs
  | some c :: cs => c.pre ||| preOf cs

/-- `POST` (R120). -/
def postOf : List (Option Converted) → BitVec 6
  | [] => 0
  | none :: cs => postOf cs
  | some c :: cs => c.post ||| postOf cs

/-- The results that the active lanes deliver. -/
def resultsOf (cs : List (Option Converted)) : List (Option Single) := cs.map (fun c => c.map (·.r))

/-- How an execution ends (R120): it delivers, recording `flags`; or it traps, recording at least
`must` and at most `may` (equal under `PrePost`). -/
inductive Resolution where
  | deliver (flags : BitVec 6) (rs : List (Option Single))
  | trap (must may : BitVec 6)
  deriving DecidableEq, Repr

/-- Exception resolution (R120): an unmasked pre-computation condition first, then an unmasked
post-computation condition; embedded rounding suppresses both (R121). -/
def resolve (policy : XmPolicy) (mxcsr : BitVec 32) (sae : Bool) (cs : List (Option Converted)) : Resolution :=
  if sae then .deliver 0 (resultsOf cs)
  else if mxUnmasked mxcsr (preOf cs) ≠ 0 then
    match policy with
    | .prePost => .trap (preOf cs) (preOf cs)
    | .anyBetween => .trap (mxUnmasked mxcsr (preOf cs)) (preOf cs ||| postOf cs)
  else if mxUnmasked mxcsr (postOf cs) ≠ 0 then
    match policy with
    | .prePost => .trap (preOf cs ||| postOf cs) (preOf cs ||| postOf cs)
    | .anyBetween => .trap (mxUnmasked mxcsr (postOf cs)) (preOf cs ||| postOf cs)
  else .deliver (preOf cs ||| postOf cs) (resultsOf cs)

/-- The flags a trap records: `must`, and of `may` whatever the free value chooses (R120; log 9).
With `must = may` the free value has no effect. -/
def trapFlags (free must may : BitVec 6) : BitVec 6 :=
  if must = may then must else must ||| (free &&& may)

end Sys2Proof.Machine
end

