-- ==== Sys2Proof/Machine/Ops.lean ====
section
/-! DEFINITION. The named operations on the state: the bits of the system registers, the operating
mode, memory, register writes, taking an exception and returning from one. -/

namespace Sys2Proof.Machine

/-! ### System-register bits (10_state.md R18, R23; positions of PE, LMA, TF PRESUMED, log 6, log 17) -/

def State.pe (s : State) : Bool := s.cr0[0]
def State.em (s : State) : Bool := s.cr0[2]
def State.ts (s : State) : Bool := s.cr0[3]
def State.am (s : State) : Bool := s.cr0[18]
def State.osfxsr (s : State) : Bool := s.cr4[9]
def State.osxmmexcpt (s : State) : Bool := s.cr4[10]
def State.osxsave (s : State) : Bool := s.cr4[18]
/-- `XCR0[2:1]` = 11b. -/
def State.avxState (s : State) : Bool := s.xcr0[1] && s.xcr0[2]
/-- `XCR0[7:5]` = 111b. -/
def State.avx512State (s : State) : Bool := s.xcr0[5] && s.xcr0[6] && s.xcr0[7]
def State.tf (s : State) : Bool := s.rflags[8]
def State.vm (s : State) : Bool := s.rflags[17]
def State.ac (s : State) : Bool := s.rflags[18]
def State.lma (s : State) : Bool := s.efer[10]
/-- Breakpoint enables of DR7, bits 7:0 (log 16). -/
def State.breakpointArmed (s : State) : Bool := s.dr7.extractLsb' 0 8 != 0

/-- The current privilege level, CS selector bits 1:0 (R23, R213). -/
def State.cpl (s : State) : BitVec 2 := s.segs.cs.selector.extractLsb' 0 2

/-- `ac_on` (R23). -/
def State.acOn (s : State) : Bool := s.am && s.ac && decide (s.cpl = 3)

/-- The operating mode (R6 `MODE`, R193, R232 step 1; log 6). -/
def State.mode (s : State) : Mode :=
  if s.pe then
    if s.lma then (if s.csL then .long64 else .compat32)
    else if s.vm then .v86 else .prot32
  else .real

/-! ### Registers -/

/-- `ZMM[n]` (R8). -/
def State.zmmReg (s : State) (n : BitVec 5) : Zmm := s.zmm[n.toNat]'n.isLt

/-- `ZMM[n] <- v` (R8). -/
def State.setZmm (s : State) (n : BitVec 5) (v : Zmm) : State :=
  { s with zmm := s.zmm.set n.toNat v n.isLt }

/-- `K[a]` (R13). -/
def State.kReg (s : State) (a : BitVec 3) : Word64 := s.k[a.toNat]'a.isLt

/-- `x[i]` (R20). -/
def State.x (s : State) (i : BitVec 4) : Word64 := s.gpr[i.toNat]'i.isLt

def Segs.get (g : Segs) : Seg → SegReg
  | .es => g.es
  | .cs => g.cs
  | .ss => g.ss
  | .ds => g.ds
  | .fs => g.fs
  | .gs => g.gs

/-- The pc truncated to the mode: 64 bits in 64-bit mode, 32 otherwise (R22). -/
def truncMode (m : Mode) (a : Word64) : Word64 :=
  if m = .long64 then a else (a.setWidth 32).setWidth 64

/-- `pc + ilen` (R22, R240). -/
def State.nextRip (s : State) (len : Nat) : Word64 := truncMode s.mode (s.rip + BitVec.ofNat 64 len)

/-- `pc <- pc + ilen`. -/
def State.advance (s : State) (len : Nat) : State := { s with rip := s.nextRip len }

/-- `MXCSR <- v`. -/
def State.setMxcsr (s : State) (v : BitVec 32) : State := { s with mxcsr := v }

/-! ### Memory (20_memory.md) -/

/-- What a byte that nothing has written reads as. DESIGN CHOICE, unsafe (log 4). -/
def unlistedByte : Byte := 0

/-- The byte at an address. -/
def Memory.readByte : Memory → Nat → Byte
  | [], _ => unlistedByte
  | (a, v) :: m, x => if a = x then v else Memory.readByte m x

/-- Store one byte, keeping the canonical form. No form of the instruction stores (R8); the loading
of a program from outside uses it (log 2). -/
def Memory.writeByte : Memory → Nat → Byte → Memory
  | [], x, v => if v = unlistedByte then [] else [(x, v)]
  | (a, w) :: m, x, v =>
    if x < a then (if v = unlistedByte then (a, w) :: m else (x, v) :: (a, w) :: m)
    else if x = a then (if v = unlistedByte then m else (a, v) :: m)
    else (a, w) :: Memory.writeByte m x v

/-- Store bytes at the given addresses, in order. -/
def Memory.writeBytes (m : Memory) : List (Nat × Byte) → Memory
  | [] => m
  | (x, v) :: rest => Memory.writeBytes (Memory.writeByte m x v) rest

/-- The canonical form from address `lo` on: addresses rising, below 2^64, no entry equal to what an
unlisted byte reads as. -/
def Memory.wfFrom : Nat → Memory → Bool
  | _, [] => true
  | lo, (a, v) :: m => decide (lo ≤ a) && decide (a < 2 ^ 64) && decide (v ≠ unlistedByte) && Memory.wfFrom (a + 1) m

/-- The canonical form. -/
def Memory.wf (m : Memory) : Bool := Memory.wfFrom 0 m

/-- The linear address of byte `t` of an access at `lin`: the sum wraps silently in the mode's
address width (R49, R240; log 15). -/
def State.byteAddr (s : State) (lin : Word64) (t : Nat) : Word64 :=
  truncMode s.mode (lin + BitVec.ofNat 64 t)

/-- `MemRead(lin, n)` without its faults: little-endian, `n <= 64` (R8, R40). -/
def State.memRead (s : State) (lin : Word64) : Nat → BitVec 512
  | 0 => 0
  | n + 1 =>
    s.memRead lin n |||
      ((Memory.readByte s.mem (s.byteAddr lin n).toNat).setWidth 512 <<< (8 * n))

/-- Bits 63:47 all equal (R49, 48-bit linear addresses). -/
def canonical (a : Word64) : Bool :=
  decide (a.extractLsb' 47 17 = 0 ∨ a.extractLsb' 47 17 = BitVec.allOnes 17)

/-! ### The oracle MemFault (R47, R197; log 5) -/

def regionCovers (r : Region) (a : Nat) : Bool := decide (r.base ≤ a ∧ a < r.base + r.size)

/-- The page-fault code of R197: bit 0 page present, bit 1 = 0 (read), bit 2 user mode. -/
def pageFaultCode (cpl : BitVec 2) (present : Bool) (other : BitVec 32) : BitVec 32 :=
  other.extractLsb' 3 29 ++ BitVec.ofBool (decide (cpl = 3)) ++ 0b0#1 ++ BitVec.ofBool present

/-- The code of the page fault a region gives a read at `cpl`, if any. -/
def regionPageFault (r : Region) (cpl : BitVec 2) : Option (BitVec 32) :=
  match r.kind with
  | .page present user supervisor other =>
    if (if cpl = 3 then user else supervisor) then some (pageFaultCode cpl present other) else none
  | _ => none

/-- Step 5 of R205 for one byte: not canonical in 64-bit mode, or refused by the segment (R197). The
oracle's segment regions count in every mode, 64-bit mode too (R47; DESIGN CHOICE, log 30). -/
def State.segmentFault (s : State) (a : Word64) : Bool :=
  (decide (s.mode = .long64) && !canonical a) ||
    s.cfg.memFault.any (fun r => regionCovers r a.toNat && decide (r.kind = .segment))

/-- Step 7 of R205 for one byte: `#PF(fc)` with the byte's linear address for CR2 (R197, R209). -/
def State.pageFault (s : State) (a : Word64) : Option Exn :=
  (s.cfg.memFault.findSome? (fun r => if regionCovers r a.toNat then regionPageFault r s.cpl else none)).map
    (fun fc => .pf a fc)

/-- The byte lies in device memory (R46). -/
def State.deviceByte (s : State) (a : Word64) : Bool :=
  s.cfg.memFault.any (fun r => regionCovers r a.toNat && decide (r.kind = .device))

/-! ### Taking an exception, and returning from one (60_exceptions.md R190, R209, R210; log 1) -/

/-- R190. The number of `#DB` is PRESUMED (log 17). -/
def Exn.vector : Exn → BitVec 8
  | .ud => 6
  | .nm => 7
  | .ss => 12
  | .gp => 13
  | .pf _ _ => 14
  | .ac => 17
  | .xm => 19
  | .db => 1

/-- R190. -/
def Exn.errorCode : Exn → Option (BitVec 32)
  | .ud => none
  | .nm => none
  | .ss => some 0
  | .gp => some 0
  | .pf _ fc => some fc
  | .ac => some 0
  | .xm => none
  | .db => none

/-- CR2 after the exception: the faulting linear address for `#PF`, otherwise unchanged (R209). -/
def Exn.cr2 (e : Exn) (old : Word64) : Word64 :=
  match e with
  | .pf a _ => a
  | _ => old

/-- The IDT entry of a vector: 16 bytes each from `IDTR.base`, in 64-bit mode (R209). -/
def State.idtEntry (s : State) (v : BitVec 8) : Option Word64 :=
  if s.mode = .long64 then some (s.idtrBase + 16 * v.setWidth 64) else none

/-- What the delivery of `e` saves (R209). -/
def State.frame (s : State) (e : Exn) : Raised where
  vector := e.vector
  errorCode := e.errorCode
  ss := s.segs.ss.selector
  rsp := s.x 4
  rflags := s.rflags
  cs := s.segs.cs.selector
  rip := s.rip
  gate := s.idtEntry e.vector

/-- Take an exception: the frame is recorded, CR2 is loaded for `#PF`, and nothing else changes; the
pc still addresses the instruction (R209). -/
def State.raise (s : State) (e : Exn) : State :=
  { s with raised := some (s.frame e), cr2 := e.cr2 s.cr2 }

/-- What a handler's `IRET` restores: RIP, CS, RFLAGS, RSP, SS from the frame (R210). No trap-return
instruction is in scope; the environment applies it. -/
def State.iret (s : State) : State :=
  match s.raised with
  | none => s
  | some f =>
    { s with
      raised := none
      rip := f.rip
      rflags := f.rflags
      gpr := s.gpr.set 4 f.rsp
      segs := { s.segs with
        cs := { s.segs.cs with selector := f.cs }
        ss := { s.segs.ss with selector := f.ss } } }

/-- `#XM` or, with `CR4.OSXMMEXCPT = 0`, `#UD` (R123). -/
def State.simdFp (s : State) : Exn := if s.osxmmexcpt then .xm else .ud

/-- An F-SSE or VEX r/m operand in memory. -/
def rmInMemory : Rm → Bool
  | .reg _ => false
  | .mem _ => true

/-- An EVEX r/m operand in memory, broadcast or not. -/
def evexRmInMemory : EvexRm → Bool
  | .reg _ => false
  | .mem _ => true
  | .bcst _ => true

/-- The form has a memory operand. -/
def hasMemory : Instr → Bool
  | .cvtpd2ps _ _ rm => rmInMemory rm
  | .vcvtpd2psVex128C5 _ _ _ rm => rmInMemory rm
  | .vcvtpd2psVex128C4 _ _ _ rm => rmInMemory rm
  | .vcvtpd2psVex256C5 _ _ _ rm => rmInMemory rm
  | .vcvtpd2psVex256C4 _ _ _ rm => rmInMemory rm
  | .vcvtpd2psEvex128 _ _ _ rm => evexRmInMemory rm
  | .vcvtpd2psEvex256 _ _ _ rm => evexRmInMemory rm
  | .vcvtpd2psEvex512 _ _ _ _ rm => evexRmInMemory rm
  | .vcvtpd2psEvex512Er _ _ _ _ _ => false

/-- The boundary after a completed instruction (R214): the single-step trap (log 17), else, with a
breakpoint armed and a memory operand, the data-breakpoint trap if the free value says that it matches
(log 16). -/
def State.boundary (i : Instr) (s : State) : State :=
  if s.raised.isSome then s
  else if s.tf then s.raise .db
  else if s.breakpointArmed && hasMemory i then
    if Config.breakpointHit s.freeCount then State.raise { s with freeCount := s.freeCount + 1 } .db
    else { s with freeCount := s.freeCount + 1 }
  else s

/-- INIT: the reset state, but the vector registers, opmasks and MXCSR keep their values (R230);
so do memory and the parameters. -/
def State.afterInit (s : State) : State :=
  { State.reset with zmm := s.zmm, k := s.k, mxcsr := s.mxcsr, mem := s.mem, cfg := s.cfg }

/-! ### Instruction fetch (R22, R55; log 19) -/

/-- The linear address of instruction byte `t`: the code segment's base, 0 in 64-bit mode, plus the
offset `pc + t`. -/
def State.fetchAddr (s : State) (t : Nat) : Word64 :=
  truncMode s.mode
    ((if s.mode = .long64 then 0 else s.segs.cs.base) + truncMode s.mode (s.rip + BitVec.ofNat 64 t))

/-- The 15 bytes at the program counter, the most an instruction may have (R60, R88). -/
def State.fetchBytes (s : State) : List Byte :=
  (List.range 15).map (fun t => Memory.readByte s.mem (s.fetchAddr t).toNat)

/-- Decode what stands at the program counter. -/
def State.decodeAtRip (s : State) : Decoded := decode s.mode s.fetchBytes

/-- In 64-bit mode one of the first `n` bytes of the fetch has an address that is not canonical. -/
def State.nonCanonicalFetch (s : State) (n : Nat) : Bool :=
  decide (s.mode = .long64) && (List.range n).any (fun t => !canonical (s.fetchAddr t))

/-- The fault of the fetch: a pc that is not canonical (R22), or another such byte of the instruction.
That it is `#GP(0)` is PRESUMED (log 19). -/
def State.fetchFault (s : State) : Option Exn :=
  if s.nonCanonicalFetch (match s.decodeAtRip with | .instr i => i.length | _ => 1) then some .gp else none

/-- Load bytes at the program counter from outside the machine (log 2). -/
def State.loadAtRip (s : State) (bytes : List Byte) : State :=
  { s with
    mem := Memory.writeBytes s.mem (bytes.mapIdx (fun t v => ((s.fetchAddr t).toNat, v))) }

/-- 64-bit mode (R232 step 1; log 2, log 6). -/
def State.enterLong64 (s : State) : State :=
  { s with cr0 := s.cr0 ||| 1, efer := s.efer ||| 0x400, csL := true, raised := none }

/-- A pc at which 15 bytes can be fetched: its own where it is one, else 0 (R22; log 2). -/
def State.fetchablePc (s : State) : State := if s.nonCanonicalFetch 15 then { s with rip := 0 } else s

end Sys2Proof.Machine
end

