-- ==== Sys2Proof/Machine/Operands.lean ====
section
/-! DEFINITION. Every operand form: register numbers (R75), effective and linear addresses (R49, R80
to R82), the accessibility checks of a memory operand in the order of R205 steps 4 to 7, and the
source elements (R41, R44, R165 step 4). -/

namespace Sys2Proof.Machine

/-! ### Register numbers (30_encoding.md R75) -/

/-- The register extension bits of an encoding, true (un-inverted). -/
structure Ext where
  r : Bool
  x : Bool
  b : Bool
  deriving DecidableEq, Repr

/-- Outside 64-bit mode every extension bit is treated as 0. -/
def extBit (m : Mode) (v : Bool) : Bool := decide (m = .long64) && v

/-- The REX byte counts only immediately before the escape byte; one followed by another prefix is
ignored (R63; log 11). -/
def rexExt (pfx : List Prefix) : Ext :=
  match pfx.getLast? with
  | some (.rex _ r x b) => ⟨r, x, b⟩
  | _ => ⟨false, false, false⟩

def vex2Ext (v : Vex2) : Ext := ⟨v.r, false, false⟩
def vex3Ext (v : Vex3) : Ext := ⟨v.r, v.x, v.b⟩
def evexExt (e : Evex) : Ext := ⟨e.r, e.x, e.b⟩

/-- A vector register number from two extension bits and three bits of ModRM. -/
def vecNum (m : Mode) (hi ext : Bool) (n : BitVec 3) : BitVec 5 :=
  BitVec.ofBool (extBit m hi) ++ BitVec.ofBool (extBit m ext) ++ n

/-- A general register number. -/
def gprNum (m : Mode) (ext : Bool) (n : BitVec 3) : BitVec 4 := BitVec.ofBool (extBit m ext) ++ n

/-! ### Effective address (R78 to R82) -/

/-- Truncation to the address size `A`. -/
def truncAddr (sz : AddrSize) (a : Word64) : Word64 :=
  match sz with
  | .a64 => a
  | .a32 => (a.setWidth 32).setWidth 64
  | .a16 => (a.setWidth 16).setWidth 64

/-- A register as the address size reads it (R80, R82). -/
def State.addrReg (s : State) (sz : AddrSize) (i : BitVec 4) : Word64 := truncAddr sz (s.x i)

/-- `D` of R80: `disp8` is scaled by `N` (R79, R81). -/
def dispValue (n : Nat) : Disp → Word64
  | .none => 0
  | .disp8 d => BitVec.ofNat 64 n * d.signExtend 64
  | .disp32 d => d.signExtend 64

/-- `D` of R82. -/
def disp16Value (n : Nat) : Disp16 → Word64
  | .none => 0
  | .disp8 d => BitVec.ofNat 64 n * d.signExtend 64
  | .disp16 d => d.setWidth 64

/-- `x[X::index] << scale`, or 0 when `X::index` is 0100b (R77, R80). -/
def State.indexValue (s : State) (sz : AddrSize) (x : Bool) (scale : BitVec 2) (index : BitVec 3) : Word64 :=
  if gprNum s.mode x index = 0b0100 then 0
  else s.addrReg sz (gprNum s.mode x index) <<< scale.toNat

/-- The register sum of a 16-bit form (R82). -/
def State.base16 (s : State) (rm : BitVec 3) : Word64 :=
  let r := fun i => s.addrReg .a16 i
  if rm = 0b000 then r 3 + r 6
  else if rm = 0b001 then r 3 + r 7
  else if rm = 0b010 then r 5 + r 6
  else if rm = 0b011 then r 5 + r 7
  else if rm = 0b100 then r 6
  else if rm = 0b101 then r 7
  else if rm = 0b110 then r 5
  else r 3

/-- The effective address `EA` (R80, R82): `n` is the disp8 scale, `len` the instruction's length
(RIP-relative addresses count from the next instruction). -/
def State.effectiveAddr (s : State) (sz : AddrSize) (ext : Ext) (n len : Nat) (a : Addr) : Word64 :=
  truncAddr sz
    (match a with
    | .base rm d => s.addrReg sz (gprNum s.mode ext.b rm) + dispValue n d
    | .dispOnly d =>
      if s.mode = .long64 then s.rip + BitVec.ofNat 64 len + d.signExtend 64 else d.signExtend 64
    | .sib sc i b d =>
      s.addrReg sz (gprNum s.mode ext.b b) + s.indexValue sz ext.x sc i + dispValue n d
    | .sibNoBase sc i d => s.indexValue sz ext.x sc i + d.signExtend 64
    | .base16 rm d => s.base16 rm + disp16Value n d
    | .dispOnly16 d => d.setWidth 64)

/-! ### Segment and linear address (R21, R49, R62) -/

/-- The default segment: SS when the base register is number 4 or 5, or BP takes part; else DS
(R80, R82). -/
def defaultSeg (m : Mode) (ext : Ext) : Addr → Seg
  | .base rm _ => if gprNum m ext.b rm = 5 then .ss else .ds
  | .dispOnly _ => .ds
  | .sib _ _ b _ => if gprNum m ext.b b = 4 ∨ gprNum m ext.b b = 5 then .ss else .ds
  | .sibNoBase _ _ _ => .ds
  | .base16 rm _ => if rm = 0b010 ∨ rm = 0b011 ∨ rm = 0b110 then .ss else .ds
  | .dispOnly16 _ => .ds

/-- A prefix's override: in 64-bit mode only FS and GS count (R62). -/
def overrideOf (m : Mode) : Prefix → Option Seg
  | .seg .fs => some .fs
  | .seg .gs => some .gs
  | .seg r => if m = .long64 then none else some r
  | _ => none

/-- The last override that counts wins (R62; log 14). -/
def segOverride (m : Mode) : List Prefix → Option Seg
  | [] => none
  | p :: ps =>
    match segOverride m ps with
    | some r => some r
    | none => overrideOf m p

/-- The segment of the memory operand. -/
def operandSeg (m : Mode) (pfx : List Prefix) (ext : Ext) (a : Addr) : Seg :=
  (segOverride m pfx).getD (defaultSeg m ext a)

/-- The base that a segment adds: in 64-bit mode only FS and GS have one (R21, R49). -/
def State.segBase (s : State) (r : Seg) : Word64 :=
  if s.mode = .long64 then
    match r with
    | .fs => s.segs.fs.base
    | .gs => s.segs.gs.base
    | _ => 0
  else (Segs.get s.segs r).base

/-- The linear address `seg_base + EA` of the memory operand (R49). -/
def State.linear (s : State) (pfx : List Prefix) (ext : Ext) (n len : Nat) (a : Addr) : Word64 :=
  truncMode s.mode
    (s.segBase (operandSeg s.mode pfx ext a) +
      s.effectiveAddr (addrSizeOf s.mode pfx) ext n len a)

/-! ### Accessibility (R44, R47, R205 steps 4 to 7) -/

/-- The addresses of the bytes of the 8-byte elements that `need` marks, from element `j` on, in
rising order (R41, R44). -/
def State.neededBytes (s : State) (lin : Word64) : Nat → List Bool → List Word64
  | _, [] => []
  | j, true :: need =>
    (List.range 8).map (fun t => s.byteAddr lin (8 * j + t)) ++ s.neededBytes lin (j + 1) need
  | j, false :: need => s.neededBytes lin (j + 1) need

/-- The first exception of R205 steps 4 to 7 that a memory operand raises. `need` marks the elements
that must be accessible; `align16` asks for step 4 (F-SSE), `acCheck` for step 6 (a broadcast element
that is read). Within one access the lowest faulting byte is reported (D24). -/
def State.memoryFault (s : State) (r : Seg) (lin : Word64) (need : List Bool) (align16 acCheck : Bool) :
    Option Exn :=
  if align16 && decide (lin.toNat % 16 ≠ 0) then some .gp
  else if (s.neededBytes lin 0 need).any s.segmentFault then some (if r = .ss then .ss else .gp)
  else if acCheck && s.acOn && decide (lin.toNat % 8 ≠ 0) then some .ac
  else (s.neededBytes lin 0 need).findSome? s.pageFault

/-- A read without a meaning: of device memory (R46). `touched` marks the elements the access extends
over (DEDUCED, log 25). -/
def State.memoryRefusal (s : State) (lin : Word64) (touched : List Bool) : Option Refusal :=
  if (s.neededBytes lin 0 touched).any s.deviceByte then some .deviceMemory
  else none

/-- The outcome of reaching a source operand. -/
inductive Access (α : Type) where
  | ok (v : α)
  | raise (e : Exn)
  | refuse (r : Refusal)
  deriving DecidableEq, Repr

/-- Element `j` of a source, `S[64j+63:64j]` (R165 step 4). -/
def elem64 (v : BitVec 512) (j : Nat) : Word64 := v.extractLsb' (64 * j) 64

/-- Source elements of the active lanes, from element `j` on. -/
def lanesFrom (v : BitVec 512) : Nat → List Bool → List (Option Word64)
  | _, [] => []
  | j, a :: active => (if a then some (elem64 v j) else none) :: lanesFrom v (j + 1) active

/-- Lanes of a source register: the low `VL` bits only (R12). -/
def State.registerLanes (s : State) (src : BitVec 5) (active : List Bool) :
    Access (List (Option Word64)) :=
  .ok (lanesFrom (s.zmmReg src) 0 active)

/-- The elements that must be accessible: the active ones under fault suppression, otherwise all
(R44). -/
def State.needed (s : State) (active : List Bool) : List Bool :=
  if s.cfg.evexFaultSuppression then active else active.map (fun _ => true)

/-- Lanes of a full-width memory operand of `active.length` elements (R41, R44, R47). DESIGN CHOICE: the
operand's exceptions come before the refusal of device memory, whose place R46 leaves open (log 27). -/
def State.memoryLanes (s : State) (r : Seg) (lin : Word64) (align16 : Bool) (active : List Bool) :
    Access (List (Option Word64)) :=
  match s.memoryFault r lin (s.needed active) align16 false with
  | some e => .raise e
  | none =>
    match s.memoryRefusal lin (active.map (fun _ => true)) with
    | some why => .refuse why
    | none => .ok (lanesFrom (s.memRead lin (8 * active.length)) 0 active)

/-- Lanes of a broadcast element: one 8-byte read used for every active lane, and no access when none
is active (R44, R170, R202). Exceptions come before the refusal, as in `memoryLanes` (log 27). -/
def State.broadcastLanes (s : State) (r : Seg) (lin : Word64) (active : List Bool) :
    Access (List (Option Word64)) :=
  match s.memoryFault r lin (s.needed [active.any id]) false (active.any id) with
  | some e => .raise e
  | none =>
    match s.memoryRefusal lin [active.any id] with
    | some why => .refuse why
    | none => .ok (active.map (fun a => if a then some (elem64 (s.memRead lin 8) 0) else none))

end Sys2Proof.Machine
end

