-- ==== Sys2Proof/Machine/Legality.lean ====
section
/-! DEFINITION. The `#UD` conditions of each family (60_exceptions.md R191 to R194 and R196,
30_encoding.md R85). -/

namespace Sys2Proof.Machine

/-- A prefix that may not stand before VEX or EVEX: 66, F2, F3, F0, REX (R67, R191; log 11). -/
def badVexPrefix : Prefix → Bool
  | .opSize => true
  | .repne => true
  | .rep => true
  | .lock => true
  | .rex _ _ _ _ => true
  | .seg _ => false
  | .addrSize => false

/-- Real-address or virtual-8086 mode (R193). -/
def State.realOrV86 (s : State) : Bool := decide (s.mode = .real ∨ s.mode = .v86)

/-- A form wider than `MAX_VL` is `#UD` (D3; log 18). -/
def State.tooWide (s : State) (vl : VecLen) : Bool := decide (s.cfg.maxVl.bits < vl.bits)

/-- R191, R192, R194 for F-SSE. Real-address and virtual-8086 mode are no condition: R193 is followed,
not A14 (DESIGN CHOICE, log 29). -/
def State.sseUd (s : State) (pfx : List Prefix) : Bool :=
  pfx.contains .lock || !s.cfg.hasSse2 || s.em || !s.osfxsr

/-- The four stored bits of `VEX.vvvv` are not 1111b, in any mode (R66, R85, R196; log 21). -/
def vexVvvvBad (vvvv : BitVec 4) : Bool := decide (vvvv ≠ 0b1111)

/-- R191 to R194, R196 for the VEX forms. -/
def State.vexUd (s : State) (pfx : List Prefix) (vvvv : BitVec 4) (vl : VecLen) : Bool :=
  pfx.any badVexPrefix || vexVvvvBad vvvv || !s.cfg.hasAvx || s.tooWide vl || !s.osxsave ||
    !s.avxState || s.realOrV86

/-- The EVEX lines of R85 that stand in the prefix: `vvvv`, `V̄'`, `W`, reserved P0 and P1 bits,
`z` without a mask (log 21). -/
def evexReserved (e : Evex) : Bool :=
  decide (e.vvvv ≠ 0b1111) || !e.vHi || !e.w || decide (e.res ≠ 0b00) || !e.fix ||
    (e.z && decide (e.aaa = 0b000))

/-- The CPUID flags of an EVEX form (R72, R192). -/
def State.hasEvex (s : State) (vl : VecLen) : Bool :=
  s.cfg.hasAvx512f &&
    (match vl with
    | .v512 => true
    | .v256 => s.cfg.hasAvx512vl
    | .v128 => s.cfg.hasAvx512vl)

/-- R191 to R194, R196 for the EVEX forms; `lenRes` is `L'L = 11b` as a length. -/
def State.evexUd (s : State) (pfx : List Prefix) (e : Evex) (lenRes : Bool) (vl : VecLen) : Bool :=
  pfx.any badVexPrefix || evexReserved e || lenRes || !s.hasEvex vl || s.tooWide vl || !s.osxsave ||
    !s.avxState || !s.avx512State || s.realOrV86

end Sys2Proof.Machine
end

