-- ==== Sys2Proof/Machine/Execute.lean ====
section
/-! DEFINITION. The skeleton every form shares: the order of checks (60_exceptions.md R205), the
conversion of the active lanes, the exception or the write (R120, R165 steps 5 and 6, R209), and the
three ways the destination is written. -/

namespace Sys2Proof.Machine

/-- Element `j` of a destination, `V[32j+31:32j]`. -/
def elem32 (v : BitVec 512) (j : Nat) : Single := v.extractLsb' (32 * j) 32

/-- A destination element: the result of an active lane; otherwise the old element, or zero with
`z` (R165 step 6, R171). -/
def mergeElem (z : Bool) (old : BitVec 512) (j : Nat) : Option Single → Single
  | some r => r
  | none => if z then 0 else elem32 old j

/-- The destination elements from `j` on, side by side, and zero above them (R165 step 6, R172). -/
def placeFrom (z : Bool) (old : BitVec 512) : Nat → List (Option Single) → BitVec 512
  | _, [] => 0
  | j, r :: rs => ((mergeElem z old j r).setWidth 512 <<< (32 * j)) ||| placeFrom z old (j + 1) rs

/-- The EVEX write: merging or zeroing, upper bits zeroed (R165 step 6). -/
def evexWrite (z : Bool) (old : BitVec 512) (rs : List (Option Single)) : BitVec 512 := placeFrom z old 0 rs

/-- The VEX write: every lane active, upper bits zeroed (R150, R151). -/
def vexWrite (old : BitVec 512) (rs : List (Option Single)) : BitVec 512 := placeFrom true old 0 rs

/-- The F-SSE write: results in 63:0, 127:64 zeroed, the bits above 127 kept (R140). -/
def sseWrite (old : BitVec 512) (rs : List (Option Single)) : BitVec 512 :=
  old.extractLsb' 128 384 ++ (placeFrom true old 0 rs).setWidth 128

/-- The trap of R120: the flags are recorded, then `#XM` or `#UD` is raised; the counter of the free
values moves on when one was used (log 9). -/
def State.trapSimd (s : State) (must may : BitVec 6) : State :=
  State.raise
    { s with
      mxcsr := mxOr s.mxcsr (trapFlags (Config.freeFlags s.freeCount) must may)
      freeCount := if must = may then s.freeCount else s.freeCount + 1 }
    s.simdFp

/-- Completion: the flags are ORed in, the destination is written, the pc advances. -/
def State.complete (s : State) (len : Nat) (dst : BitVec 5) (flags : BitVec 6) (v : Zmm) : State :=
  ((s.setMxcsr (mxOr s.mxcsr flags)).setZmm dst v).advance len

/-- R205 steps 8 and 9 and the write: convert the lanes, then trap or complete. -/
def State.convertAndWrite (s : State) (len : Nat) (er : Option Rounding) (dst : BitVec 5)
    (write : BitVec 512 → List (Option Single) → BitVec 512) (lanes : List (Option Word64)) : State :=
  match resolve s.cfg.xmPolicy s.mxcsr er.isSome
      (convertLanes (cvtEnv s.cfg.ftzFlushesExactTiny s.mxcsr er) lanes) with
  | .trap must may => s.trapSimd must may
  | .deliver flags rs => s.complete len dst flags (write (s.zmmReg dst) rs)

/-- One execution in the order of R205: length over 15, `#UD`, `#NM`, the source operand's faults,
then the conversion. -/
def State.execute (s : State) (len : Nat) (ud : Bool) (source : Access (List (Option Word64)))
    (er : Option Rounding) (dst : BitVec 5) (write : BitVec 512 → List (Option Single) → BitVec 512) :
    Host.Outcome State Fault Refusal :=
  if 15 < len then .next (s.raise .gp)
  else if ud then .next (s.raise .ud)
  else if s.ts then .next (s.raise .nm)
  else
    match source with
    | .raise e => .next (s.raise e)
    | .refuse why => .refused why
    | .ok lanes => .next (s.convertAndWrite len er dst write lanes)

/-- Every lane active. -/
def allActive (vl : VecLen) : List Bool := List.replicate vl.kl true

end Sys2Proof.Machine
end

