-- ==== Sys2Proof/Machine/Evex.lean ====
section
/-! DEFINITION. The EVEX forms: writemask, zeroing, broadcast, embedded rounding
(43_vcvtpd2ps_evex.md R165 to R173). -/

namespace Sys2Proof.Machine

/-- `active(j)` for `j = 0 .. KL-1` (R165 step 2, R14): no writemask when `aaa` is 000b. -/
def State.activeLanes (s : State) (aaa : BitVec 3) (vl : VecLen) : List Bool :=
  (List.range vl.kl).map (fun j => decide (aaa = 0b000) || (s.kReg aaa).getLsbD j)

/-- The disp8 scale of a full-width EVEX operand: its bytes (R81). -/
def fullScale (vl : VecLen) : Nat := 8 * vl.kl

/-- Destination register, `~R̄' :: ~R̄ :: reg` (R75). -/
def State.evexDst (s : State) (e : Evex) (reg : BitVec 3) : BitVec 5 := vecNum s.mode e.rHi e.r reg

/-- Source register, `~X̄ :: ~B̄ :: rm` (R75). -/
def State.evexSrc (s : State) (e : Evex) (n : BitVec 3) : BitVec 5 := vecNum s.mode e.x e.b n

/-- The linear address of an EVEX memory operand with disp8 scale `n`. -/
def State.evexLinear (s : State) (pfx : List Prefix) (e : Evex) (n : Nat) (a : Addr) : Word64 :=
  s.linear pfx (evexExt e) n (instrLength pfx 5 (addrLength a)) a

/-- Step 4 of R165: register, full-width memory, or broadcast source. -/
def State.evexSource (s : State) (pfx : List Prefix) (e : Evex) (vl : VecLen) :
    EvexRm → Access (List (Option Word64))
  | .reg n => s.registerLanes (s.evexSrc e n) (s.activeLanes e.aaa vl)
  | .mem a =>
    s.memoryLanes (operandSeg s.mode pfx (evexExt e) a) (s.evexLinear pfx e (fullScale vl) a) false
      (s.activeLanes e.aaa vl)
  | .bcst a =>
    s.broadcastLanes (operandSeg s.mode pfx (evexExt e) a) (s.evexLinear pfx e 8 a)
      (s.activeLanes e.aaa vl)

/-- The skeleton of R165 without embedded rounding. -/
def State.executeEvex (s : State) (pfx : List Prefix) (e : Evex) (lenRes : Bool) (vl : VecLen)
    (reg : BitVec 3) (rm : EvexRm) : Host.Outcome State Fault Refusal :=
  s.execute (instrLength pfx 5 (evexRmLength rm)) (s.evexUd pfx e lenRes vl)
    (s.evexSource pfx e vl rm) none (s.evexDst e reg) (evexWrite e.z)

/-- `VCVTPD2PS xmm1 {k1}{z}, xmm2/m128/m64bcst` (R166). -/
def execVcvtpd2psEvex128 (pfx : List Prefix) (e : Evex) (reg : BitVec 3) (rm : EvexRm) (s : State) :
    Host.Outcome State Fault Refusal :=
  s.executeEvex pfx e false .v128 reg rm

/-- `VCVTPD2PS xmm1 {k1}{z}, ymm2/m256/m64bcst` (R167). -/
def execVcvtpd2psEvex256 (pfx : List Prefix) (e : Evex) (reg : BitVec 3) (rm : EvexRm) (s : State) :
    Host.Outcome State Fault Refusal :=
  s.executeEvex pfx e false .v256 reg rm

/-- `VCVTPD2PS ymm1 {k1}{z}, zmm2/m512/m64bcst` (R168); `lenRes` raises `#UD` (R85). -/
def execVcvtpd2psEvex512 (pfx : List Prefix) (e : Evex) (lenRes : Bool) (reg : BitVec 3)
    (rm : EvexRm) (s : State) : Host.Outcome State Fault Refusal :=
  s.executeEvex pfx e lenRes .v512 reg rm

/-- `VCVTPD2PS ymm1 {k1}{z}, zmm2, {er}` (R169): the prefix's rounding mode, all exceptions
suppressed, always 512 bits (R73, R121). -/
def execVcvtpd2psEvex512Er (pfx : List Prefix) (e : Evex) (rc : Rounding) (reg src : BitVec 3)
    (s : State) : Host.Outcome State Fault Refusal :=
  s.execute (instrLength pfx 5 0) (s.evexUd pfx e false .v512)
    (s.registerLanes (s.evexSrc e src) (s.activeLanes e.aaa .v512)) (some rc) (s.evexDst e reg)
    (evexWrite e.z)

end Sys2Proof.Machine
end

