-- ==== Sys2Proof/Machine/Sse.lean ====
section
/-! DEFINITION. The legacy SSE form (41_cvtpd2ps_legacy_sse.md R140, R141). -/

namespace Sys2Proof.Machine

/-- The source of F-SSE: `XMM[REX.B :: rm]`, or 16 bytes of memory aligned to 16 (R140). -/
def State.sseSource (s : State) (pfx : List Prefix) : Rm → Access (List (Option Word64))
  | .reg n => s.registerLanes (vecNum s.mode false (rexExt pfx).b n) (allActive .v128)
  | .mem a =>
    s.memoryLanes (operandSeg s.mode pfx (rexExt pfx) a)
      (s.linear pfx (rexExt pfx) 1 (instrLength pfx 2 (addrLength a)) a) true (allActive .v128)

/-- `CVTPD2PS xmm1, xmm2/m128` (R140). -/
def execCvtpd2ps (pfx : List Prefix) (reg : BitVec 3) (rm : Rm) (s : State) :
    Host.Outcome State Fault Refusal :=
  s.execute (instrLength pfx 2 (rmLength rm)) (s.sseUd pfx) (s.sseSource pfx rm) none
    (vecNum s.mode false (rexExt pfx).r reg) sseWrite

end Sys2Proof.Machine
end

