-- ==== Sys2Proof/Machine/Vex.lean ====
section
/-! DEFINITION. The VEX forms in their two spellings (42_vcvtpd2ps_vex.md R150 to R153). -/

namespace Sys2Proof.Machine

/-- The source of a VEX form: the low `VL` bits of a register, or `VL/8` bytes of memory at any
alignment (R150, R151). -/
def State.vexSource (s : State) (pfx : List Prefix) (ext : Ext) (vl : VecLen) (nEscape : Nat) :
    Rm → Access (List (Option Word64))
  | .reg n => s.registerLanes (vecNum s.mode false ext.b n) (allActive vl)
  | .mem a =>
    s.memoryLanes (operandSeg s.mode pfx ext a)
      (s.linear pfx ext 1 (instrLength pfx nEscape (addrLength a)) a) false (allActive vl)

/-- The skeleton R150 and R151 share; `nEscape` is 3 for the C5 spelling and 4 for C4 (R88). -/
def State.executeVex (s : State) (pfx : List Prefix) (ext : Ext) (vvvv : BitVec 4) (vl : VecLen)
    (nEscape : Nat) (reg : BitVec 3) (rm : Rm) : Host.Outcome State Fault Refusal :=
  s.execute (instrLength pfx nEscape (rmLength rm)) (s.vexUd pfx vvvv vl)
    (s.vexSource pfx ext vl nEscape rm) none (vecNum s.mode false ext.r reg) vexWrite

/-- `VCVTPD2PS xmm1, xmm2/m128`, 2-byte VEX (R150). -/
def execVcvtpd2psVex128C5 (pfx : List Prefix) (v : Vex2) (reg : BitVec 3) (rm : Rm) (s : State) :
    Host.Outcome State Fault Refusal :=
  s.executeVex pfx (vex2Ext v) v.vvvv .v128 3 reg rm

/-- `VCVTPD2PS xmm1, xmm2/m128`, 3-byte VEX; `W` is ignored (R150, R86). -/
def execVcvtpd2psVex128C4 (pfx : List Prefix) (v : Vex3) (reg : BitVec 3) (rm : Rm) (s : State) :
    Host.Outcome State Fault Refusal :=
  s.executeVex pfx (vex3Ext v) v.vvvv .v128 4 reg rm

/-- `VCVTPD2PS xmm1, ymm2/m256`, 2-byte VEX (R151). -/
def execVcvtpd2psVex256C5 (pfx : List Prefix) (v : Vex2) (reg : BitVec 3) (rm : Rm) (s : State) :
    Host.Outcome State Fault Refusal :=
  s.executeVex pfx (vex2Ext v) v.vvvv .v256 3 reg rm

/-- `VCVTPD2PS xmm1, ymm2/m256`, 3-byte VEX; `W` is ignored (R151, R86). -/
def execVcvtpd2psVex256C4 (pfx : List Prefix) (v : Vex3) (reg : BitVec 3) (rm : Rm) (s : State) :
    Host.Outcome State Fault Refusal :=
  s.executeVex pfx (vex3Ext v) v.vvvv .v256 4 reg rm

end Sys2Proof.Machine
end

