-- ==== Sys2Proof/Machine/Dispatch.lean ====
section
/-! DEFINITION. One arm per constructor of `Instr`, each one direct call of its meaning. -/

namespace Sys2Proof.Machine

def exec (i : Instr) (s : State) : Host.Outcome State Fault Refusal :=
  match i with
  | .cvtpd2ps pfx reg rm => Sys2Proof.Machine.execCvtpd2ps pfx reg rm s
  | .vcvtpd2psVex128C5 pfx v reg rm => Sys2Proof.Machine.execVcvtpd2psVex128C5 pfx v reg rm s
  | .vcvtpd2psVex128C4 pfx v reg rm => Sys2Proof.Machine.execVcvtpd2psVex128C4 pfx v reg rm s
  | .vcvtpd2psVex256C5 pfx v reg rm => Sys2Proof.Machine.execVcvtpd2psVex256C5 pfx v reg rm s
  | .vcvtpd2psVex256C4 pfx v reg rm => Sys2Proof.Machine.execVcvtpd2psVex256C4 pfx v reg rm s
  | .vcvtpd2psEvex128 pfx e reg rm => Sys2Proof.Machine.execVcvtpd2psEvex128 pfx e reg rm s
  | .vcvtpd2psEvex256 pfx e reg rm => Sys2Proof.Machine.execVcvtpd2psEvex256 pfx e reg rm s
  | .vcvtpd2psEvex512 pfx e lenRes reg rm => Sys2Proof.Machine.execVcvtpd2psEvex512 pfx e lenRes reg rm s
  | .vcvtpd2psEvex512Er pfx e rc reg src => Sys2Proof.Machine.execVcvtpd2psEvex512Er pfx e rc reg src s

end Sys2Proof.Machine
end

