-- ==== Sys2Proof/Machine/Step.lean ====
section
/-! DEFINITION. One step: the terminal outcome after an undelivered exception (R209), else fetch,
decode and execute (92_eei_decisions.md D1), with the debug traps at the boundary (R214). -/

namespace Sys2Proof.Machine

/-- What a step makes of `exec`'s answer: the debug traps follow a completed instruction. -/
def afterExec (i : Instr) : Host.Outcome State Fault Refusal → Host.Outcome State Fault Refusal
  | .next t => .next (t.boundary i)
  | .fault r => .fault r
  | .refused r => .refused r

/-- One step. A pc that is not canonical faults at the fetch (R22; log 19). Bytes that run out within 15
belong to an instruction longer than 15 bytes: `#GP(0)` (R88, R205 step 1; log 13). -/
def step (s : State) : Host.Outcome State Fault Refusal :=
  match s.raised with
  | some f => .fault (.exception f.vector f.errorCode)
  | none =>
    match s.fetchFault with
    | some e => .next (s.raise e)
    | none =>
      match s.decodeAtRip with
      | .instr i => afterExec i (exec i s)
      | .truncated => .next (s.raise .gp)
      | .notThis why => .refused (.notThisInstruction why)

/-- `s` with a table word's instruction where the next step fetches it, in 64-bit mode, in which the
word is this instruction, at a canonical pc (log 2). -/
def State.withFetchWord (s : State) (nbits w : Nat) : State :=
  s.enterLong64.fetchablePc.loadAtRip (tableBytes nbits w)

end Sys2Proof.Machine
end

