-- ==== Sys2Proof/WellFormed.lean ====
section
/-! DEFINITION. Well-formed instructions: terms that stand for a byte string of the mode
(`encodable`) and carry none of the reserved encodings that raise `#UD` (`legal`, 30_encoding.md
R85). -/

namespace Sys2Proof

/-- A displacement-free SIB or base form must not be the disp32-only one (R77, R78). -/
def Addr.fits (sz : AddrSize) : Addr → Bool
  | .base rm d => decide (sz ≠ .a16 ∧ rm ≠ 0b100 ∧ ¬(d = .none ∧ rm = 0b101))
  | .dispOnly _ => decide (sz ≠ .a16)
  | .sib _ _ b d => decide (sz ≠ .a16 ∧ ¬(d = .none ∧ b = 0b101))
  | .sibNoBase _ _ _ => decide (sz ≠ .a16)
  | .base16 rm d => decide (sz = .a16 ∧ ¬(d = .none ∧ rm = 0b110))
  | .dispOnly16 _ => decide (sz = .a16)

def Rm.fits (sz : AddrSize) : Rm → Bool
  | .reg _ => true
  | .mem a => a.fits sz

def EvexRm.fits (sz : AddrSize) : EvexRm → Bool
  | .reg _ => true
  | .mem a => a.fits sz
  | .bcst a => a.fits sz

def Prefix.isRex : Prefix → Bool
  | .rex _ _ _ _ => true
  | _ => false

/-- REX exists in 64-bit mode only (R63). -/
def prefixesFit (m : Mode) (pfx : List Prefix) : Bool :=
  decide (m = .long64) || !pfx.any Prefix.isRex

/-- Outside 64-bit mode the stored `R̄` and `X̄` (for the 2-byte VEX: `R̄` and `v̄3`) are 1 (R68). -/
def Vex2.fits (m : Mode) (v : Vex2) : Bool := decide (m = .long64) || (!v.r && v.vvvv[3])

def Vex3.fits (m : Mode) (v : Vex3) : Bool := decide (m = .long64) || (!v.r && !v.x)

/-- The term is what some byte string decodes to in mode `m` (R83). -/
def Instr.encodable (m : Mode) : Instr → Bool
  | .cvtpd2ps pfx _ rm =>
    prefixesFit m pfx && pfx.contains .opSize && !pfx.contains .rep && !pfx.contains .repne &&
      rm.fits (addrSizeOf m pfx)
  | .vcvtpd2psVex128C5 pfx v _ rm => prefixesFit m pfx && v.fits m && rm.fits (addrSizeOf m pfx)
  | .vcvtpd2psVex128C4 pfx v _ rm => prefixesFit m pfx && v.fits m && rm.fits (addrSizeOf m pfx)
  | .vcvtpd2psVex256C5 pfx v _ rm => prefixesFit m pfx && v.fits m && rm.fits (addrSizeOf m pfx)
  | .vcvtpd2psVex256C4 pfx v _ rm => prefixesFit m pfx && v.fits m && rm.fits (addrSizeOf m pfx)
  | .vcvtpd2psEvex128 pfx _ _ rm => prefixesFit m pfx && rm.fits (addrSizeOf m pfx)
  | .vcvtpd2psEvex256 pfx _ _ rm => prefixesFit m pfx && rm.fits (addrSizeOf m pfx)
  | .vcvtpd2psEvex512 pfx _ _ _ rm => prefixesFit m pfx && rm.fits (addrSizeOf m pfx)
  | .vcvtpd2psEvex512Er pfx _ _ _ _ => prefixesFit m pfx

/-- Only segment overrides and 67 may stand before a VEX or EVEX prefix (R67, R85). -/
def Prefix.beforeVex : Prefix → Bool
  | .seg _ => true
  | .addrSize => true
  | _ => false

/-- The four stored bits of `VEX.vvvv` are 1111b (R66, R196). -/
def vexVvvvLegal (v : BitVec 4) : Bool := decide (v = 0b1111)

/-- None of the EVEX lines of R85. -/
def Evex.legal (e : Evex) : Bool :=
  decide (e.vvvv = 0b1111) && e.vHi && e.w && decide (e.res = 0b00) && e.fix &&
    !(e.z && decide (e.aaa = 0b000))

/-- The encoding is none of R85's. -/
def Instr.legal : Instr → Bool
  | .cvtpd2ps pfx _ _ => !pfx.contains .lock
  | .vcvtpd2psVex128C5 pfx v _ _ => pfx.all Prefix.beforeVex && vexVvvvLegal v.vvvv
  | .vcvtpd2psVex128C4 pfx v _ _ => pfx.all Prefix.beforeVex && vexVvvvLegal v.vvvv
  | .vcvtpd2psVex256C5 pfx v _ _ => pfx.all Prefix.beforeVex && vexVvvvLegal v.vvvv
  | .vcvtpd2psVex256C4 pfx v _ _ => pfx.all Prefix.beforeVex && vexVvvvLegal v.vvvv
  | .vcvtpd2psEvex128 pfx e _ _ => pfx.all Prefix.beforeVex && e.legal
  | .vcvtpd2psEvex256 pfx e _ _ => pfx.all Prefix.beforeVex && e.legal
  | .vcvtpd2psEvex512 pfx e lenRes _ _ => pfx.all Prefix.beforeVex && e.legal && !lenRes
  | .vcvtpd2psEvex512Er pfx e _ _ _ => pfx.all Prefix.beforeVex && e.legal

def Instr.wellFormed (m : Mode) (i : Instr) : Bool := i.encodable m && i.legal

end Sys2Proof
end

