-- ==== Sys2Proof/Safety.lean ====
section
/-! DEFINITION. The terms in which claims speak: the views of an instruction (destination, lanes,
memory operand), when its form is enabled, what an execution detects and delivers, the invariant,
and a safe step. They are written from the rules of spec/, not from the meanings. -/

namespace Sys2Proof.Machine

/-! ### Views of an instruction -/

/-- `VL` of the form (30_encoding.md R72). -/
def vecLenOf : Instr → VecLen
  | .cvtpd2ps _ _ _ => .v128
  | .vcvtpd2psVex128C5 _ _ _ _ => .v128
  | .vcvtpd2psVex128C4 _ _ _ _ => .v128
  | .vcvtpd2psVex256C5 _ _ _ _ => .v256
  | .vcvtpd2psVex256C4 _ _ _ _ => .v256
  | .vcvtpd2psEvex128 _ _ _ _ => .v128
  | .vcvtpd2psEvex256 _ _ _ _ => .v256
  | .vcvtpd2psEvex512 _ _ _ _ _ => .v512
  | .vcvtpd2psEvex512Er _ _ _ _ _ => .v512

/-- The EVEX payload, if the form is an EVEX one. -/
def evexOf? : Instr → Option Evex
  | .cvtpd2ps _ _ _ => none
  | .vcvtpd2psVex128C5 _ _ _ _ => none
  | .vcvtpd2psVex128C4 _ _ _ _ => none
  | .vcvtpd2psVex256C5 _ _ _ _ => none
  | .vcvtpd2psVex256C4 _ _ _ _ => none
  | .vcvtpd2psEvex128 _ e _ _ => some e
  | .vcvtpd2psEvex256 _ e _ _ => some e
  | .vcvtpd2psEvex512 _ e _ _ _ => some e
  | .vcvtpd2psEvex512Er _ e _ _ _ => some e

/-- The embedded rounding mode, if any (R73, R102). -/
def erOf : Instr → Option Rounding
  | .vcvtpd2psEvex512Er _ _ rc _ _ => some rc
  | _ => none

/-- The destination register (R75). -/
def dstOf (m : Mode) : Instr → BitVec 5
  | .cvtpd2ps pfx reg _ => vecNum m false (rexExt pfx).r reg
  | .vcvtpd2psVex128C5 _ v reg _ => vecNum m false v.r reg
  | .vcvtpd2psVex128C4 _ v reg _ => vecNum m false v.r reg
  | .vcvtpd2psVex256C5 _ v reg _ => vecNum m false v.r reg
  | .vcvtpd2psVex256C4 _ v reg _ => vecNum m false v.r reg
  | .vcvtpd2psEvex128 _ e reg _ => vecNum m e.rHi e.r reg
  | .vcvtpd2psEvex256 _ e reg _ => vecNum m e.rHi e.r reg
  | .vcvtpd2psEvex512 _ e _ reg _ => vecNum m e.rHi e.r reg
  | .vcvtpd2psEvex512Er _ e _ reg _ => vecNum m e.rHi e.r reg

/-- `active(j)`: without a writemask every lane is active (R14, R165 step 2). -/
def State.activeLane (s : State) (i : Instr) (j : Nat) : Bool :=
  match evexOf? i with
  | none => true
  | some e => decide (e.aaa = 0) || (s.kReg e.aaa).getLsbD j

/-- Some lane is active. -/
def State.anyActive (s : State) (i : Instr) : Bool := (List.range (vecLenOf i).kl).any (s.activeLane i)

/-- A memory operand: its segment, linear address, number of 8-byte elements, whether F-SSE's
alignment is required, and whether its one element is broadcast (R41, R42, R49). -/
structure MemOperand where
  seg : Seg
  lin : Word64
  elems : Nat
  align16 : Bool
  bcst : Bool
  deriving DecidableEq, Repr

/-- The memory operand of an address under F-SSE or VEX: `disp8` is unscaled (R79). -/
def State.plainOperand (s : State) (i : Instr) (pfx : List Prefix) (ext : Ext) (align16 : Bool) :
    Rm → Option MemOperand
  | .reg _ => none
  | .mem a => some
      { seg := operandSeg s.mode pfx ext a, lin := s.linear pfx ext 1 i.length a
        elems := (vecLenOf i).kl, align16 := align16, bcst := false }

/-- The memory operand of an EVEX form: `disp8` is scaled by the operand's bytes (R81). -/
def State.evexOperand (s : State) (i : Instr) (pfx : List Prefix) (e : Evex) : EvexRm → Option MemOperand
  | .reg _ => none
  | .mem a => some
      { seg := operandSeg s.mode pfx (evexExt e) a
        lin := s.linear pfx (evexExt e) ((vecLenOf i).bits / 8) i.length a
        elems := (vecLenOf i).kl, align16 := false, bcst := false }
  | .bcst a => some
      { seg := operandSeg s.mode pfx (evexExt e) a, lin := s.linear pfx (evexExt e) 8 i.length a
        elems := 1, align16 := false, bcst := true }

/-- The memory operand of an instruction, if it has one. -/
def State.memOperand (s : State) (i : Instr) : Option MemOperand :=
  match i with
  | .cvtpd2ps pfx _ rm => s.plainOperand i pfx (rexExt pfx) true rm
  | .vcvtpd2psVex128C5 pfx v _ rm => s.plainOperand i pfx (vex2Ext v) false rm
  | .vcvtpd2psVex128C4 pfx v _ rm => s.plainOperand i pfx (vex3Ext v) false rm
  | .vcvtpd2psVex256C5 pfx v _ rm => s.plainOperand i pfx (vex2Ext v) false rm
  | .vcvtpd2psVex256C4 pfx v _ rm => s.plainOperand i pfx (vex3Ext v) false rm
  | .vcvtpd2psEvex128 pfx e _ rm => s.evexOperand i pfx e rm
  | .vcvtpd2psEvex256 pfx e _ rm => s.evexOperand i pfx e rm
  | .vcvtpd2psEvex512 pfx e _ _ rm => s.evexOperand i pfx e rm
  | .vcvtpd2psEvex512Er _ _ _ _ _ => none

/-- The source register of a VEX or F-SSE r/m operand (R75). -/
def plainSrc (m : Mode) (b : Bool) : Rm → Option (BitVec 5)
  | .reg n => some (vecNum m false b n)
  | .mem _ => none

/-- The source register of an EVEX r/m operand (R75). -/
def evexSrcReg (m : Mode) (e : Evex) : EvexRm → Option (BitVec 5)
  | .reg n => some (vecNum m e.x e.b n)
  | .mem _ => none
  | .bcst _ => none

/-- The source register, if the source is one (R75). -/
def srcOf (m : Mode) : Instr → Option (BitVec 5)
  | .cvtpd2ps pfx _ rm => plainSrc m (rexExt pfx).b rm
  | .vcvtpd2psVex128C5 _ _ _ rm => plainSrc m false rm
  | .vcvtpd2psVex128C4 _ v _ rm => plainSrc m v.b rm
  | .vcvtpd2psVex256C5 _ _ _ rm => plainSrc m false rm
  | .vcvtpd2psVex256C4 _ v _ rm => plainSrc m v.b rm
  | .vcvtpd2psEvex128 _ e _ rm => evexSrcReg m e rm
  | .vcvtpd2psEvex256 _ e _ rm => evexSrcReg m e rm
  | .vcvtpd2psEvex512 _ e _ _ rm => evexSrcReg m e rm
  | .vcvtpd2psEvex512Er _ e _ _ src => some (vecNum m e.x e.b src)

/-! ### Memory operands: elements and accessibility -/

/-- The byte at offset `t` of an operand. -/
def State.operandByte (s : State) (lin : Word64) (t : Nat) : Byte :=
  Memory.readByte s.mem (s.byteAddr lin t).toNat

/-- Element `j` of a memory operand: the eight bytes from `lin + 8j`, the lowest the least
significant (R40). -/
def State.elementAt (s : State) (lin : Word64) (j : Nat) : Word64 :=
  s.operandByte lin (8 * j + 7) ++ s.operandByte lin (8 * j + 6) ++ s.operandByte lin (8 * j + 5) ++
    s.operandByte lin (8 * j + 4) ++ s.operandByte lin (8 * j + 3) ++ s.operandByte lin (8 * j + 2) ++
    s.operandByte lin (8 * j + 1) ++ s.operandByte lin (8 * j)

/-- The source element of lane `j` (R165 step 4). -/
def State.operandLane (s : State) (i : Instr) (j : Nat) : Word64 :=
  match s.memOperand i with
  | some p => if p.bcst then s.elementAt p.lin 0 else s.elementAt p.lin j
  | none =>
    match srcOf s.mode i with
    | some n => elem64 (s.zmmReg n) j
    | none => 0

/-- The bytes of element `j` pass the segment and canonical checks (R197, R205 step 5). -/
def State.segmentOk (s : State) (lin : Word64) (j : Nat) : Bool :=
  (List.range 8).all (fun t => !s.segmentFault (s.byteAddr lin (8 * j + t)))

/-- The bytes of element `j` pass the paging check (R197, R205 step 7). -/
def State.pageOk (s : State) (lin : Word64) (j : Nat) : Bool :=
  (List.range 8).all (fun t => (s.pageFault (s.byteAddr lin (8 * j + t))).isNone)

/-- The bytes of element `j` lie in ordinary memory (R46). -/
def State.ordinary (s : State) (lin : Word64) (j : Nat) : Bool :=
  (List.range 8).all (fun t => !s.deviceByte (s.byteAddr lin (8 * j + t)))

/-- Element `j` of the operand must be accessible: without fault suppression every one, with it the
elements of active lanes, and a broadcast element if any lane is active (R44). -/
def State.needsElement (s : State) (i : Instr) (p : MemOperand) (j : Nat) : Bool :=
  decide (j < p.elems) &&
    (!s.cfg.evexFaultSuppression || (if p.bcst then s.anyActive i else s.activeLane i j))

/-- `#AC` applies: a broadcast element that is read at an address that is not a multiple of 8, with
alignment checking on (R23, R202). -/
def State.alignmentChecked (s : State) (i : Instr) (p : MemOperand) : Bool :=
  p.bcst && s.anyActive i && (s.cr0[18] && s.rflags[18] && decide (s.cpl = 3)) && decide (p.lin.toNat % 8 ≠ 0)

/-- No check of R205 steps 4 to 7 fails. -/
def State.operandAccessible (s : State) (i : Instr) (p : MemOperand) : Prop :=
  (p.align16 = true → p.lin.toNat % 16 = 0) ∧
  (∀ j, s.needsElement i p j = true → s.segmentOk p.lin j = true ∧ s.pageOk p.lin j = true) ∧
  s.alignmentChecked i p = false

/-- The launch premise on the operand: ordinary memory (R46, R233). -/
def State.operandOrdinary (s : State) (i : Instr) (p : MemOperand) : Prop :=
  ∀ j < p.elems, (p.bcst = true → s.anyActive i = true) → s.ordinary p.lin j = true

/-- The source operand can be read: a register, or accessible ordinary memory. -/
def State.sourceReadable (s : State) (i : Instr) : Prop :=
  ∀ p, s.memOperand i = some p → s.operandAccessible i p ∧ s.operandOrdinary i p

/-! ### Addresses (30_encoding.md R77 to R82) and the fetch (10_state.md R22) -/

/-- `D` of R80, exact: `disp8` is scaled by `N` (R79, R81). -/
def dispInt (n : Nat) : Disp → Int
  | .none => 0
  | .disp8 d => n * d.toInt
  | .disp32 d => d.toInt

/-- `D` of R82, exact. -/
def disp16Int (n : Nat) : Disp16 → Int
  | .none => 0
  | .disp8 d => n * d.toInt
  | .disp16 d => d.toNat

/-- `A` of R80 and R82, in bits. -/
def addrBits : AddrSize → Nat
  | .a16 => 16
  | .a32 => 32
  | .a64 => 64

/-- A general register as a number. -/
def State.xInt (s : State) (i : BitVec 4) : Int := (s.x i).toNat

/-- The scaled index register, absent when its number is 0100b (R77, R80). -/
def State.indexInt (s : State) (sc : BitVec 2) (i : BitVec 4) : Int :=
  if i = 4 then 0 else s.xInt i * 2 ^ sc.toNat

/-- The address of an instruction byte is canonical (R49). -/
def State.fetchableByte (s : State) (t : Nat) : Prop :=
  (s.fetchAddr t).extractLsb' 47 17 = 0 ∨ (s.fetchAddr t).extractLsb' 47 17 = BitVec.allOnes 17

/-- In 64-bit mode the first `n` bytes of the fetch have canonical addresses (R22). -/
def State.fetchable (s : State) (n : Nat) : Prop := s.mode = .long64 → ∀ t < n, s.fetchableByte t

/-! ### Enabling (60_exceptions.md R191 to R196, 70_reset_and_hazards.md R232) -/

/-- F-SSE is enabled: SSE2, `CR0.EM = 0`, `CR4.OSFXSR = 1`. -/
def State.sseOn (s : State) : Bool := s.cfg.hasSse2 && !s.cr0[2] && s.cr4[9]

/-- `CR4.OSXSAVE = 1`, `XCR0[2:1] = 11b`, not real-address or virtual-8086 mode, and `VL` not wider
than `MAX_VL` (log 18). -/
def State.avxOn (s : State) (vl : VecLen) : Bool :=
  s.cr4[18] && s.xcr0[1] && s.xcr0[2] && decide (s.mode ≠ .real) && decide (s.mode ≠ .v86) &&
    decide (vl.bits ≤ s.cfg.maxVl.bits)

/-- The EVEX forms' further conditions: `XCR0[7:5] = 111b` and the CPUID flags. -/
def State.avx512On (s : State) (vl : VecLen) : Bool :=
  s.avxOn vl && s.xcr0[5] && s.xcr0[6] && s.xcr0[7] && s.cfg.hasAvx512f &&
    (decide (vl = .v512) || s.cfg.hasAvx512vl)

/-- None of the `#UD` conditions of R191 to R194 and R196 holds. -/
def State.enabled (s : State) (i : Instr) : Bool :=
  i.legal &&
    (match i with
    | .cvtpd2ps _ _ _ => s.sseOn
    | .vcvtpd2psVex128C5 _ _ _ _ => s.cfg.hasAvx && s.avxOn .v128
    | .vcvtpd2psVex128C4 _ _ _ _ => s.cfg.hasAvx && s.avxOn .v128
    | .vcvtpd2psVex256C5 _ _ _ _ => s.cfg.hasAvx && s.avxOn .v256
    | .vcvtpd2psVex256C4 _ _ _ _ => s.cfg.hasAvx && s.avxOn .v256
    | .vcvtpd2psEvex128 _ _ _ _ => s.avx512On .v128
    | .vcvtpd2psEvex256 _ _ _ _ => s.avx512On .v256
    | .vcvtpd2psEvex512 _ _ _ _ _ => s.avx512On .v512
    | .vcvtpd2psEvex512Er _ _ _ _ _ => s.avx512On .v512)

/-- R205 steps 1 to 3 pass: at most 15 bytes, enabled, `CR0.TS = 0`. -/
def State.ready (s : State) (i : Instr) : Prop :=
  i.length ≤ 15 ∧ s.enabled i = true ∧ s.cr0[3] = false

/-! ### What an execution detects and delivers (40_conversion_numerics.md R120) -/

/-- The environment of an execution without embedded rounding: MXCSR's own bits (R15, R110). -/
def State.mxcsrEnv (s : State) : CvtEnv where
  rc := roundingOfBits (s.mxcsr.extractLsb' 13 2)
  daz := s.mxcsr[6]
  ftz := s.mxcsr[15]
  om := s.mxcsr[10]
  um := s.mxcsr[11]
  flushExact := s.cfg.ftzFlushesExactTiny

/-- The environment under embedded rounding: `OM = UM = 1`, `DAZ` and `FTZ` still apply (R121). -/
def State.erEnv (s : State) (rc : Rounding) : CvtEnv where
  rc := rc
  daz := s.mxcsr[6]
  ftz := s.mxcsr[15]
  om := true
  um := true
  flushExact := s.cfg.ftzFlushesExactTiny

/-- The union of a set of conditions over the active lanes below `n`. -/
def unionOver (active : Nat → Bool) (f : Nat → BitVec 6) : Nat → BitVec 6
  | 0 => 0
  | n + 1 => unionOver active f n ||| (if active n then f n else 0)

/-- `PRE` of an execution without embedded rounding (R120). -/
def State.preSet (s : State) (i : Instr) : BitVec 6 :=
  unionOver (s.activeLane i) (fun j => (cvt (s.operandLane i j) s.mxcsrEnv).pre) (vecLenOf i).kl

/-- `POST` of an execution without embedded rounding (R120). -/
def State.postSet (s : State) (i : Instr) : BitVec 6 :=
  unionOver (s.activeLane i) (fun j => (cvt (s.operandLane i j) s.mxcsrEnv).post) (vecLenOf i).kl

/-- The conditions of a set that are unmasked (R15). -/
def State.unmasked (s : State) (c : BitVec 6) : BitVec 6 := c &&& ~~~(s.mxcsr.extractLsb' 7 6)

/-- Every detected condition is masked. -/
def State.quiet (s : State) (i : Instr) : Prop := s.unmasked (s.preSet i ||| s.postSet i) = 0

/-- The state a completed execution leaves: the destination, MXCSR's flags and the pc change, and
nothing else (R22, R120). -/
def State.completed (s : State) (i : Instr) (dst : BitVec 5) (flags : BitVec 6) (v : Zmm) : State :=
  { s with
    zmm := s.zmm.set dst.toNat v dst.isLt
    mxcsr := s.mxcsr ||| flags.setWidth 32
    rip := truncMode s.mode (s.rip + BitVec.ofNat 64 i.length) }

/-- A completed execution that writes as the VEX and EVEX rules say: the active elements below
`KL` receive their lane's result, the others keep their value or become zero, and the bits from `VL/2` on
are zero (R150, R151, R165 step 6). -/
def State.delivers (s : State) (i : Instr) (dst : BitVec 5) (flags : BitVec 6) (vl : VecLen) (z : Bool)
    (src : Nat → Word64) (env : CvtEnv) : Prop :=
  ∃ v, exec i s = .next (s.completed i dst flags v) ∧
    (∀ j < vl.kl, elem32 v j =
      if s.activeLane i j then (cvt (src j) env).r else if z then 0 else elem32 (s.zmmReg dst) j) ∧
    v >>> (vl.bits / 2) = 0

/-- A completed execution that writes as F-SSE: two results, zero up to bit 127, the rest kept
(R140). -/
def State.deliversSse (s : State) (i : Instr) (dst : BitVec 5) (flags : BitVec 6)
    (src : Nat → Word64) (env : CvtEnv) : Prop :=
  ∃ v, exec i s = .next (s.completed i dst flags v) ∧
    elem32 v 0 = (cvt (src 0) env).r ∧ elem32 v 1 = (cvt (src 1) env).r ∧
    v.extractLsb' 64 64 = 0 ∧ v.extractLsb' 128 384 = (s.zmmReg dst).extractLsb' 128 384

/-- The state an exception leaves: the frame is recorded, and of the rest only the flags of a SIMD
trap change (R209). -/
def State.trapped (s : State) (e : Exn) (flags : BitVec 6) : State :=
  { s with mxcsr := s.mxcsr ||| flags.setWidth 32, raised := some (s.frame e) }

/-! ### Values of floating-point data (40_conversion_numerics.md R100, R101) -/

/-- The value of a finite double-precision number in units of `2^-1074`. -/
def dblScaled (x : Word64) : Int :=
  (if x[63] then -1 else 1) *
    (if x.extractLsb' 52 11 = 0 then ((x.extractLsb' 0 52).toNat : Int)
     else ((2 ^ 52 + (x.extractLsb' 0 52).toNat) * 2 ^ ((x.extractLsb' 52 11).toNat - 1) : Nat))

/-- The value of a finite single-precision number in units of `2^-1074`. -/
def sglScaled (r : Single) : Int :=
  (if r[31] then -1 else 1) *
    (if r.extractLsb' 23 8 = 0 then ((r.extractLsb' 0 23).toNat * 2 ^ 925 : Nat)
     else ((2 ^ 23 + (r.extractLsb' 0 23).toNat) * 2 ^ ((r.extractLsb' 23 8).toNat + 924) : Nat))

/-- Magnitude bits of a double-precision value: they order as the magnitudes do. -/
def dblMag (x : Word64) : Nat := (x.extractLsb' 0 63).toNat

/-- The order of the non-NaN double-precision values, infinities included. -/
def dblKey (x : Word64) : Int := if x[63] then -(dblMag x : Int) else dblMag x

/-- The order of the non-NaN single-precision values, infinities included. -/
def sglKey (r : Single) : Int :=
  if r[31] then -((r.extractLsb' 0 31).toNat : Int) else (r.extractLsb' 0 31).toNat

/-- The mode rounds magnitudes of this sign upward (R102). -/
def roundsAway (rc : Rounding) (s : Bool) : Bool :=
  match rc with
  | .nearest => false
  | .down => s
  | .up => !s
  | .zero => false

/-- The magnitudes whose 24-bit rounding is `2^128` or more (R113). -/
def overflowAt (rc : Rounding) (s : Bool) (mag : Nat) : Prop :=
  if rc = .nearest then 0x47EFFFFFF0000000 ≤ mag
  else if roundsAway rc s = true then 0x47EFFFFFE0000000 < mag
  else 0x47F0000000000000 ≤ mag

/-- The nonzero magnitudes whose 24-bit rounding is below `2^-126` (R114). -/
def tinyAt (rc : Rounding) (s : Bool) (mag : Nat) : Prop :=
  if rc = .nearest then mag < 0x380FFFFFF0000000
  else if roundsAway rc s = true then mag ≤ 0x380FFFFFE0000000
  else mag < 0x3810000000000000

/-! ### Invariant and safety -/

/-- The vectors this model raises, with their error codes (R190; 1 is the `#DB` of R214, log 16,
log 17). -/
def legalRaise (cpl : BitVec 2) (f : Raised) : Bool :=
  if f.vector = 14 then
    match f.errorCode with
    | some fc => !fc[1] && (fc[2] == decide (cpl = 3))
    | none => false
  else if f.vector = 12 ∨ f.vector = 13 ∨ f.vector = 17 then decide (f.errorCode = some 0)
  else decide (f.vector = 1 ∨ f.vector = 6 ∨ f.vector = 7 ∨ f.vector = 19) && decide (f.errorCode = none)

/-- The recorded frame is that of the state it stands in (R209). -/
def State.frameAgrees (s : State) (f : Raised) : Bool :=
  decide (f.ss = s.segs.ss.selector) && decide (f.rsp = s.x 4) && decide (f.rflags = s.rflags) &&
    decide (f.cs = s.segs.cs.selector) && decide (f.rip = s.rip) && decide (f.gate = s.idtEntry f.vector)

/-- The invariant: memory is canonical, `MXCSR[31:16]` is zero (R17), no register has a bit above
`MAX_VL` (R10), a pending exception is one of R190 or the `#DB` of R214 (log 16, log 17) with the frame of
this state, and EIP has 32 bits outside 64-bit mode (R22). -/
def State.inv (s : State) : Prop :=
  Memory.wf s.mem = true ∧
  s.mxcsr.extractLsb' 16 16 = 0 ∧
  (∀ n : BitVec 5, s.zmmReg n >>> s.cfg.maxVl.bits = 0) ∧
  (∀ f, s.raised = some f → legalRaise s.cpl f = true ∧ s.frameAgrees f = true) ∧
  (s.mode ≠ .long64 → s.rip.toNat < 2 ^ 32)

/-- A safe step: the machine goes on and no exception is pending. -/
def State.stepsSafely (s : State) : Prop := ∃ t, step s = .next t ∧ t.raised = none

end Sys2Proof.Machine
end

