-- ==== Sys2Proof/Certificates/Slice0/Obligations.lean ====
section
/-! DEFINITION. The statements for the provers. Each docstring names the rules of spec/ it rests on;
where a clause is the model's own choice it names the log entry. -/

section SliceZero

open Sys2Proof Sys2Proof.Machine

/-! ### Encoding -/

/-- Decoding an encoded instruction gives it back, whatever bytes follow, in every mode (R60 to R82,
R87). -/
def Obligations.DecodeOfEncode : Prop :=
  ∀ (m : Mode) (i : Instr) (rest : List Byte), i.encodable m = true →
    decode m (encode i ++ rest) = .instr i

/-- Bytes that decode to an instruction begin with its encoding, so no two byte strings share a
reading and no bit is dropped (R83, R87, R88). -/
def Obligations.EncodeOfDecode : Prop :=
  ∀ (m : Mode) (bytes : List Byte) (i : Instr), decode m bytes = .instr i →
    i.encodable m = true ∧ encode i = bytes.take i.length ∧ i.length ≤ bytes.length

/-- Twelve byte strings decode to the instructions they stand for. Eleven are examples of the spec (R142,
R153, R154, R166, R167, R169, R173, R174, R177); `C4 E1 FD 5A CA` stands nowhere in it and is derived
from R83 row 5 and R86 (`VEX.W` ignored). -/
def Obligations.KnownEncodingsDecode : Prop :=
  decode .long64 [0x66, 0x0F, 0x5A, 0xCA] = .instr (.cvtpd2ps [.opSize] 1 (.reg 2)) ∧
  decode .long64 [0xC5, 0xF9, 0x5A, 0xCA] = .instr (.vcvtpd2psVex128C5 [] ⟨false, 15⟩ 1 (.reg 2)) ∧
  decode .long64 [0xC4, 0xE1, 0x79, 0x5A, 0xCA] =
    .instr (.vcvtpd2psVex128C4 [] ⟨false, false, false, false, 15⟩ 1 (.reg 2)) ∧
  decode .long64 [0xC5, 0xFD, 0x5A, 0xCA] = .instr (.vcvtpd2psVex256C5 [] ⟨false, 15⟩ 1 (.reg 2)) ∧
  decode .long64 [0xC4, 0xE1, 0xFD, 0x5A, 0xCA] =
    .instr (.vcvtpd2psVex256C4 [] ⟨false, false, false, true, 15⟩ 1 (.reg 2)) ∧
  decode .long64 [0x62, 0xF1, 0xFD, 0x08, 0x5A, 0xCA] =
    .instr (.vcvtpd2psEvex128 [] ⟨false, false, false, false, 0, true, 15, true, false, true, 0⟩ 1 (.reg 2)) ∧
  decode .long64 [0x62, 0xF1, 0xFD, 0x28, 0x5A, 0xCA] =
    .instr (.vcvtpd2psEvex256 [] ⟨false, false, false, false, 0, true, 15, true, false, true, 0⟩ 1 (.reg 2)) ∧
  decode .long64 [0x62, 0xF1, 0xFD, 0xC9, 0x5A, 0xCA] =
    .instr (.vcvtpd2psEvex512 [] ⟨false, false, false, false, 0, true, 15, true, true, true, 1⟩ false 1 (.reg 2)) ∧
  decode .long64 [0x62, 0xF1, 0xFD, 0x78, 0x5A, 0xCA] =
    .instr (.vcvtpd2psEvex512Er [] ⟨false, false, false, false, 0, true, 15, true, false, true, 0⟩ .zero 1 2) ∧
  decode .long64 [0x62, 0xB1, 0xFD, 0x48, 0x5A, 0xCA] =
    .instr (.vcvtpd2psEvex512 [] ⟨false, true, false, false, 0, true, 15, true, false, true, 0⟩ false 1 (.reg 2)) ∧
  decode .long64 [0x62, 0xE1, 0xFD, 0x48, 0x5A, 0xCA] =
    .instr (.vcvtpd2psEvex512 [] ⟨false, false, false, true, 0, true, 15, true, false, true, 0⟩ false 1 (.reg 2)) ∧
  decode .long64 [0x62, 0xF1, 0xFD, 0x18, 0x5A, 0x08] =
    .instr (.vcvtpd2psEvex128 [] ⟨false, false, false, false, 0, true, 15, true, false, true, 0⟩ 1
      (.bcst (.base 0 .none)))

/-- The neighbours of opcode 5A are not this instruction, and a step refuses them: `0F 5A` without 66
or with F2 or F3, and VEX or EVEX with another `pp` (R84; log 24). -/
def Obligations.NeighboursRefused : Prop :=
  (∀ (m : Mode) (pfx : List Prefix) (rest : List Byte), prefixesFit m pfx = true →
    (Prefix.opSize ∉ pfx ∨ Prefix.rep ∈ pfx ∨ Prefix.repne ∈ pfx →
      ∃ why, decode m (pfx.map prefixByte ++ 0x0F :: 0x5A :: rest) = .notThis why) ∧
    (∀ v1 : Byte, v1.extractLsb' 0 2 ≠ 0b01 →
      ∃ why, decode m (pfx.map prefixByte ++ 0xC5 :: v1 :: 0x5A :: rest) = .notThis why) ∧
    (∀ v1 v2 : Byte, v2.extractLsb' 0 2 ≠ 0b01 →
      ∃ why, decode m (pfx.map prefixByte ++ 0xC4 :: v1 :: v2 :: 0x5A :: rest) = .notThis why) ∧
    (∀ p0 p1 p2 : Byte, p1.extractLsb' 0 2 ≠ 0b01 →
      ∃ why, decode m (pfx.map prefixByte ++ 0x62 :: p0 :: p1 :: p2 :: 0x5A :: rest) = .notThis why)) ∧
  (∀ (s : State) (why : Reject), s.raised = none → s.fetchable 1 → decode s.mode s.fetchBytes = .notThis why →
    step s = .refused (.notThisInstruction why))

/-! ### Fetching and stepping -/

/-- A step runs the decoded instruction: `exec`'s answer, with the debug traps of R214 at the boundary
when nothing was raised: single-step with `RFLAGS.TF`, and for a memory form with a breakpoint armed a
trap if the free value says so (DESIGN CHOICE, log 16 and log 17). Where a byte of the instruction, or
the pc itself, has no canonical address, the fetch faults (R22; that it is `#GP(0)` is PRESUMED,
log 19). -/
def Obligations.StepRunsDecoded : Prop :=
  (∀ (s : State) (i : Instr), s.raised = none → decode s.mode s.fetchBytes = .instr i →
    s.fetchable i.length →
    step s =
      match exec i s with
      | .next t => .next (
          if t.raised ≠ none then t
          else if t.rflags[8] = true then t.raise .db
          else if t.dr7.extractLsb' 0 8 ≠ 0 ∧ s.memOperand i ≠ none then
            if Config.breakpointHit t.freeCount = true then
              State.raise { t with freeCount := t.freeCount + 1 } .db
            else { t with freeCount := t.freeCount + 1 }
          else t)
      | .fault r => .fault r
      | .refused r => .refused r) ∧
  (∀ (s : State) (i : Instr), s.raised = none → decode s.mode s.fetchBytes = .instr i →
    ¬ s.fetchable i.length → step s = .next (s.raise .gp)) ∧
  (∀ s : State, s.raised = none → ¬ s.fetchable 1 → step s = .next (s.raise .gp))

/-- When the encoding of an instruction stands at the program counter, the step decodes exactly that
instruction (R22, R60, R87). -/
def Obligations.FetchedEncodingDecodes : Prop :=
  ∀ (s : State) (i : Instr), i.encodable s.mode = true → i.length ≤ 15 →
    (∀ t < i.length, (encode i)[t]? = some (Memory.readByte s.mem (s.fetchAddr t).toNat)) →
    decode s.mode s.fetchBytes = .instr i

/-- Placing a table word puts exactly its bytes at the program counter, in 64-bit mode with nothing
pending and the bytes fetchable, and changes no byte elsewhere (the model's loading convention,
log 2). -/
def Obligations.LoadedWordIsFetched : Prop :=
  ∀ (s : State) (nbits w : Nat), Memory.wf s.mem = true →
    (s.withFetchWord nbits w).fetchBytes = tableBytes nbits w ∧
    (s.withFetchWord nbits w).mode = .long64 ∧ (s.withFetchWord nbits w).raised = none ∧
    (s.withFetchWord nbits w).fetchable 15 ∧
    (s.enterLong64.fetchable 15 → (s.withFetchWord nbits w).rip = s.rip) ∧
    (∀ a, (∀ t < 15, a ≠ ((s.withFetchWord nbits w).fetchAddr t).toNat) →
      Memory.readByte (s.withFetchWord nbits w).mem a = Memory.readByte s.mem a)

/-- An instruction longer than 15 bytes raises `#GP(0)` before any other check (R88, R205 step 1); so do
bytes that run out within the 15 fetched (DESIGN CHOICE, log 13). -/
def Obligations.TooLongRaisesGp : Prop :=
  (∀ (s : State) (i : Instr), 15 < i.length → exec i s = .next (s.raise .gp)) ∧
  (∀ s : State, s.raised = none → decode s.mode s.fetchBytes = .truncated → step s = .next (s.raise .gp))

/-- From a launch state (R232, R233) with the instruction's bytes at the program counter and fetchable,
the form enabled, the operand readable, every SIMD exception masked and neither single-step nor
breakpoints (R214), a step goes on with nothing raised and the program counter past the instruction.
That the bytes are readable and executable is R233's premise: a fetch that paging denies is outside
the model (R205; log 19). -/
def Obligations.LaunchedInstructionRuns : Prop :=
  ∀ (s : State) (i : Instr), s.raised = none → i.encodable s.mode = true →
    (∀ t < i.length, (encode i)[t]? = some (Memory.readByte s.mem (s.fetchAddr t).toNat)) →
    s.fetchable i.length → s.ready i → s.sourceReadable i → s.mxcsr.extractLsb' 7 6 = 63 →
    s.rflags[8] = false → (s.memOperand i = none ∨ s.dr7.extractLsb' 0 8 = 0) →
    s.stepsSafely ∧
      ∀ t, step s = .next t → t.rip = truncMode s.mode (s.rip + BitVec.ofNat 64 i.length)

/-! ### Completion, result and frame of every form -/

/-- F-SSE, register source: two results, bits 127:64 zeroed, the bits above kept, the flags ORed in, the
pc advanced, nothing else changed (R140). -/
def Obligations.SseRegisterCompletes : Prop :=
  ∀ (pfx : List Prefix) (reg n : BitVec 3) (s : State),
    s.ready (.cvtpd2ps pfx reg (.reg n)) → s.quiet (.cvtpd2ps pfx reg (.reg n)) →
    s.deliversSse (.cvtpd2ps pfx reg (.reg n)) (vecNum s.mode false (rexExt pfx).r reg)
      (s.preSet (.cvtpd2ps pfx reg (.reg n)) ||| s.postSet (.cvtpd2ps pfx reg (.reg n)))
      (fun j => (s.zmmReg (vecNum s.mode false (rexExt pfx).b n)).extractLsb' (64 * j) 64) s.mxcsrEnv

/-- F-SSE, memory source: as the register form on the 16 bytes at the linear address, which is a
multiple of 16 (R140, R40, R42). -/
def Obligations.SseMemoryCompletes : Prop :=
  ∀ (pfx : List Prefix) (reg : BitVec 3) (a : Addr) (s : State),
    s.ready (.cvtpd2ps pfx reg (.mem a)) → s.sourceReadable (.cvtpd2ps pfx reg (.mem a)) →
    s.quiet (.cvtpd2ps pfx reg (.mem a)) →
    s.deliversSse (.cvtpd2ps pfx reg (.mem a)) (vecNum s.mode false (rexExt pfx).r reg)
      (s.preSet (.cvtpd2ps pfx reg (.mem a)) ||| s.postSet (.cvtpd2ps pfx reg (.mem a)))
      (fun j => s.elementAt (s.linear pfx (rexExt pfx) 1 (Instr.cvtpd2ps pfx reg (.mem a)).length a) j)
      s.mxcsrEnv

/-- The VEX forms in both spellings, register source (R150, R151, R153). -/
def Obligations.VexRegisterCompletes : Prop :=
  ∀ (pfx : List Prefix) (v2 : Vex2) (v3 : Vex3) (reg n : BitVec 3) (s : State),
    (∀ i, i = Instr.vcvtpd2psVex128C5 pfx v2 reg (.reg n) → s.ready i → s.quiet i →
      s.delivers i (vecNum s.mode false v2.r reg) (s.preSet i ||| s.postSet i) .v128 false
        (fun j => (s.zmmReg (vecNum s.mode false false n)).extractLsb' (64 * j) 64) s.mxcsrEnv) ∧
    (∀ i, i = Instr.vcvtpd2psVex128C4 pfx v3 reg (.reg n) → s.ready i → s.quiet i →
      s.delivers i (vecNum s.mode false v3.r reg) (s.preSet i ||| s.postSet i) .v128 false
        (fun j => (s.zmmReg (vecNum s.mode false v3.b n)).extractLsb' (64 * j) 64) s.mxcsrEnv) ∧
    (∀ i, i = Instr.vcvtpd2psVex256C5 pfx v2 reg (.reg n) → s.ready i → s.quiet i →
      s.delivers i (vecNum s.mode false v2.r reg) (s.preSet i ||| s.postSet i) .v256 false
        (fun j => (s.zmmReg (vecNum s.mode false false n)).extractLsb' (64 * j) 64) s.mxcsrEnv) ∧
    (∀ i, i = Instr.vcvtpd2psVex256C4 pfx v3 reg (.reg n) → s.ready i → s.quiet i →
      s.delivers i (vecNum s.mode false v3.r reg) (s.preSet i ||| s.postSet i) .v256 false
        (fun j => (s.zmmReg (vecNum s.mode false v3.b n)).extractLsb' (64 * j) 64) s.mxcsrEnv)

/-- The VEX forms in both spellings, memory source of 16 or 32 bytes at any alignment (R150, R151, R40,
R42). -/
def Obligations.VexMemoryCompletes : Prop :=
  ∀ (pfx : List Prefix) (v2 : Vex2) (v3 : Vex3) (reg : BitVec 3) (a : Addr) (s : State),
    (∀ i, i = Instr.vcvtpd2psVex128C5 pfx v2 reg (.mem a) → s.ready i → s.sourceReadable i → s.quiet i →
      s.delivers i (vecNum s.mode false v2.r reg) (s.preSet i ||| s.postSet i) .v128 false
        (s.elementAt (s.linear pfx ⟨v2.r, false, false⟩ 1 i.length a)) s.mxcsrEnv) ∧
    (∀ i, i = Instr.vcvtpd2psVex128C4 pfx v3 reg (.mem a) → s.ready i → s.sourceReadable i → s.quiet i →
      s.delivers i (vecNum s.mode false v3.r reg) (s.preSet i ||| s.postSet i) .v128 false
        (s.elementAt (s.linear pfx ⟨v3.r, v3.x, v3.b⟩ 1 i.length a)) s.mxcsrEnv) ∧
    (∀ i, i = Instr.vcvtpd2psVex256C5 pfx v2 reg (.mem a) → s.ready i → s.sourceReadable i → s.quiet i →
      s.delivers i (vecNum s.mode false v2.r reg) (s.preSet i ||| s.postSet i) .v256 false
        (s.elementAt (s.linear pfx ⟨v2.r, false, false⟩ 1 i.length a)) s.mxcsrEnv) ∧
    (∀ i, i = Instr.vcvtpd2psVex256C4 pfx v3 reg (.mem a) → s.ready i → s.sourceReadable i → s.quiet i →
      s.delivers i (vecNum s.mode false v3.r reg) (s.preSet i ||| s.postSet i) .v256 false
        (s.elementAt (s.linear pfx ⟨v3.r, v3.x, v3.b⟩ 1 i.length a)) s.mxcsrEnv)

/-- The EVEX forms, register source, under the writemask (R165 to R168). -/
def Obligations.EvexRegisterCompletes : Prop :=
  ∀ (pfx : List Prefix) (e : Evex) (lenRes : Bool) (reg n : BitVec 3) (s : State),
    (∀ i, i = Instr.vcvtpd2psEvex128 pfx e reg (.reg n) → s.ready i → s.quiet i →
      s.delivers i (vecNum s.mode e.rHi e.r reg) (s.preSet i ||| s.postSet i) .v128 e.z
        (fun j => (s.zmmReg (vecNum s.mode e.x e.b n)).extractLsb' (64 * j) 64) s.mxcsrEnv) ∧
    (∀ i, i = Instr.vcvtpd2psEvex256 pfx e reg (.reg n) → s.ready i → s.quiet i →
      s.delivers i (vecNum s.mode e.rHi e.r reg) (s.preSet i ||| s.postSet i) .v256 e.z
        (fun j => (s.zmmReg (vecNum s.mode e.x e.b n)).extractLsb' (64 * j) 64) s.mxcsrEnv) ∧
    (∀ i, i = Instr.vcvtpd2psEvex512 pfx e lenRes reg (.reg n) → s.ready i → s.quiet i →
      s.delivers i (vecNum s.mode e.rHi e.r reg) (s.preSet i ||| s.postSet i) .v512 e.z
        (fun j => (s.zmmReg (vecNum s.mode e.x e.b n)).extractLsb' (64 * j) 64) s.mxcsrEnv)

/-- The EVEX forms, full-width memory source: `disp8` scaled by 16, 32 or 64, elements of masked-off
lanes need not be accessible (R165 to R168, R44, R81). -/
def Obligations.EvexMemoryCompletes : Prop :=
  ∀ (pfx : List Prefix) (e : Evex) (lenRes : Bool) (reg : BitVec 3) (a : Addr) (s : State),
    (∀ i, i = Instr.vcvtpd2psEvex128 pfx e reg (.mem a) → s.ready i → s.sourceReadable i → s.quiet i →
      s.delivers i (vecNum s.mode e.rHi e.r reg) (s.preSet i ||| s.postSet i) .v128 e.z
        (s.elementAt (s.linear pfx ⟨e.r, e.x, e.b⟩ 16 i.length a)) s.mxcsrEnv) ∧
    (∀ i, i = Instr.vcvtpd2psEvex256 pfx e reg (.mem a) → s.ready i → s.sourceReadable i → s.quiet i →
      s.delivers i (vecNum s.mode e.rHi e.r reg) (s.preSet i ||| s.postSet i) .v256 e.z
        (s.elementAt (s.linear pfx ⟨e.r, e.x, e.b⟩ 32 i.length a)) s.mxcsrEnv) ∧
    (∀ i, i = Instr.vcvtpd2psEvex512 pfx e lenRes reg (.mem a) → s.ready i → s.sourceReadable i → s.quiet i →
      s.delivers i (vecNum s.mode e.rHi e.r reg) (s.preSet i ||| s.postSet i) .v512 e.z
        (s.elementAt (s.linear pfx ⟨e.r, e.x, e.b⟩ 64 i.length a)) s.mxcsrEnv)

/-- The EVEX forms, broadcast source: the one element at the linear address, `disp8` scaled by 8, in
every active lane (R165, R170, R81). -/
def Obligations.EvexBroadcastCompletes : Prop :=
  ∀ (pfx : List Prefix) (e : Evex) (lenRes : Bool) (reg : BitVec 3) (a : Addr) (s : State),
    (∀ i, i = Instr.vcvtpd2psEvex128 pfx e reg (.bcst a) → s.ready i → s.sourceReadable i → s.quiet i →
      s.delivers i (vecNum s.mode e.rHi e.r reg) (s.preSet i ||| s.postSet i) .v128 e.z
        (fun _ => s.elementAt (s.linear pfx ⟨e.r, e.x, e.b⟩ 8 i.length a) 0) s.mxcsrEnv) ∧
    (∀ i, i = Instr.vcvtpd2psEvex256 pfx e reg (.bcst a) → s.ready i → s.sourceReadable i → s.quiet i →
      s.delivers i (vecNum s.mode e.rHi e.r reg) (s.preSet i ||| s.postSet i) .v256 e.z
        (fun _ => s.elementAt (s.linear pfx ⟨e.r, e.x, e.b⟩ 8 i.length a) 0) s.mxcsrEnv) ∧
    (∀ i, i = Instr.vcvtpd2psEvex512 pfx e lenRes reg (.bcst a) → s.ready i → s.sourceReadable i → s.quiet i →
      s.delivers i (vecNum s.mode e.rHi e.r reg) (s.preSet i ||| s.postSet i) .v512 e.z
        (fun _ => s.elementAt (s.linear pfx ⟨e.r, e.x, e.b⟩ 8 i.length a) 0) s.mxcsrEnv)

/-- Embedded rounding: whenever the form is ready it completes, with the prefix's rounding mode and the
masked responses, whatever MXCSR's masks are, and MXCSR does not change (R169, R121). -/
def Obligations.EvexEmbeddedRoundingCompletes : Prop :=
  ∀ (pfx : List Prefix) (e : Evex) (rc : Rounding) (reg n : BitVec 3) (s : State),
    s.ready (.vcvtpd2psEvex512Er pfx e rc reg n) →
    s.delivers (.vcvtpd2psEvex512Er pfx e rc reg n) (vecNum s.mode e.rHi e.r reg) 0 .v512 e.z
      (fun j => (s.zmmReg (vecNum s.mode e.x e.b n)).extractLsb' (64 * j) 64) (s.erEnv rc)

/-! ### Exceptions: where each form traps -/

/-- Any `#UD` condition of R191 to R194 and R196 raises `#UD`, before `CR0.TS` and the operand count. Three
of the conditions in `State.enabled` are the model's: the width against `MAX_VL` in `State.avxOn`
(DESIGN CHOICE, log 18), a REX that stands apart from the VEX or EVEX prefix (DEDUCED, log 11), and,
outside 64-bit mode, EVEX `V'` and bit 3 of `vvvv`, where R68 reads otherwise than R196 (DEDUCED,
log 21). -/
def Obligations.UndefinedOpcodeRaised : Prop :=
  ∀ (s : State) (i : Instr), i.length ≤ 15 → s.enabled i = false → exec i s = .next (s.raise .ud)

/-- `#NM` when `CR0.TS = 1` and no `#UD` condition holds, for every form (R195). -/
def Obligations.DeviceNotAvailableRaised : Prop :=
  ∀ (s : State) (i : Instr), i.length ≤ 15 → s.enabled i = true → s.cr0[3] = true →
    exec i s = .next (s.raise .nm)

/-- F-SSE raises `#GP(0)` on an operand that is not a multiple of 16, before the segment and paging
checks (R199, R205 step 4). -/
def Obligations.SseMisalignedRaised : Prop :=
  ∀ (pfx : List Prefix) (reg : BitVec 3) (a : Addr) (s : State), s.ready (.cvtpd2ps pfx reg (.mem a)) →
    (s.linear pfx (rexExt pfx) 1 (Instr.cvtpd2ps pfx reg (.mem a)).length a).toNat % 16 ≠ 0 →
    exec (.cvtpd2ps pfx reg (.mem a)) s = .next (s.raise .gp)

/-- A byte that must be accessible and is not canonical, or that the segment denies, raises `#SS(0)`
through SS and `#GP(0)` otherwise (R49, R197, R205 step 5). That the oracle's segment denial counts in
64-bit mode too is a DESIGN CHOICE (log 30). -/
def Obligations.SegmentFaultRaised : Prop :=
  ∀ (s : State) (i : Instr) (p : MemOperand), s.ready i → s.memOperand i = some p →
    (p.align16 = true → p.lin.toNat % 16 = 0) →
    (∃ j t, s.needsElement i p j = true ∧ t < 8 ∧
      ((s.mode = .long64 ∧ (s.byteAddr p.lin (8 * j + t)).extractLsb' 47 17 ≠ 0 ∧
          (s.byteAddr p.lin (8 * j + t)).extractLsb' 47 17 ≠ BitVec.allOnes 17) ∨
        ∃ r ∈ s.cfg.memFault, r.kind = .segment ∧ r.base ≤ (s.byteAddr p.lin (8 * j + t)).toNat ∧
          (s.byteAddr p.lin (8 * j + t)).toNat < r.base + r.size)) →
    exec i s = .next (s.raise (if p.seg = .ss then .ss else .gp))

/-- `#AC(0)`: a broadcast element that is read, not a multiple of 8, with `CR0.AM`, `RFLAGS.AC` and
CPL 3, after the segment check and before the paging check; and no other access is subject to it
(R202). -/
def Obligations.AlignmentCheckRaised : Prop :=
  (∀ (s : State) (i : Instr) (p : MemOperand), s.ready i → s.memOperand i = some p → p.bcst = true →
    s.anyActive i = true → s.cr0[18] = true → s.rflags[18] = true → s.cpl = 3 →
    p.lin.toNat % 8 ≠ 0 → s.segmentOk p.lin 0 = true →
    exec i s = .next (s.raise .ac) ∧
      (s.raise .ac).raised.map (fun f => (f.vector, f.errorCode)) = some (17, some 0)) ∧
  (∀ (s t : State) (i : Instr) (f : Raised), s.raised = none → exec i s = .next t → t.raised = some f →
    f.vector = 17 → ∃ p, s.memOperand i = some p ∧ p.bcst = true ∧ s.anyActive i = true ∧
      s.cr0[18] = true ∧ s.rflags[18] = true ∧ s.cpl = 3 ∧ p.lin.toNat % 8 ≠ 0)

/-- `#PF`: the lowest byte that must be accessible and whose page denies the read is reported, and CR2
receives its address (R197, R209, R205 step 7). That it is the lowest byte is a choice: the spec's own
decision D24, where R47 leaves it to the oracle, and the model's form of the oracle (DESIGN CHOICE,
log 5). -/
def Obligations.PageFaultRaised : Prop :=
  ∀ (s : State) (i : Instr) (p : MemOperand) (j t : Nat) (e : Exn), s.ready i →
    s.memOperand i = some p → (p.align16 = true → p.lin.toNat % 16 = 0) →
    (∀ j', s.needsElement i p j' = true → s.segmentOk p.lin j' = true) → s.alignmentChecked i p = false →
    s.needsElement i p j = true → t < 8 → s.pageFault (s.byteAddr p.lin (8 * j + t)) = some e →
    (∀ j' t', s.needsElement i p j' = true → t' < 8 → 8 * j' + t' < 8 * j + t →
      s.pageFault (s.byteAddr p.lin (8 * j' + t')) = none) →
    exec i s = .next (s.raise e) ∧ (s.raise e).cr2 = s.byteAddr p.lin (8 * j + t) ∧
      ∃ fc, e = .pf (s.byteAddr p.lin (8 * j + t)) fc ∧ fc[1] = false ∧ fc[2] = decide (s.cpl = 3)

/-- An unmasked pre-computation condition: PRE alone is recorded, `#XM` or, with
`CR4.OSXMMEXCPT = 0`, `#UD` is raised, nothing is delivered (R120, R123, R198; `PrePost`). -/
def Obligations.PreComputationTraps : Prop :=
  ∀ (s : State) (i : Instr), s.ready i → s.sourceReadable i → erOf i = none →
    s.cfg.xmPolicy = .prePost → s.unmasked (s.preSet i) ≠ 0 →
    exec i s = .next (s.trapped (if s.cr4[10] then .xm else .ud) (s.preSet i))

/-- Only post-computation conditions unmasked: PRE and POST are recorded, then as above (R120, R123,
R198; `PrePost`). -/
def Obligations.PostComputationTraps : Prop :=
  ∀ (s : State) (i : Instr), s.ready i → s.sourceReadable i → erOf i = none →
    s.cfg.xmPolicy = .prePost → s.unmasked (s.preSet i) = 0 → s.unmasked (s.postSet i) ≠ 0 →
    exec i s = .next (s.trapped (if s.cr4[10] then .xm else .ud) (s.preSet i ||| s.postSet i))

/-- Under `AnyBetween` the flags a trap records lie between the unmasked conditions of its stage and
PRE with POST, whatever the free value is (R120; log 9). -/
def Obligations.TrapFlagsBetween : Prop :=
  ∀ (s : State) (i : Instr), s.ready i → s.sourceReadable i → erOf i = none →
    s.cfg.xmPolicy = .anyBetween → s.unmasked (s.preSet i ||| s.postSet i) ≠ 0 →
    ∃ flags c, exec i s = .next { s.trapped (if s.cr4[10] then .xm else .ud) flags with freeCount := c } ∧
      (if s.unmasked (s.preSet i) ≠ 0 then s.unmasked (s.preSet i) else s.unmasked (s.postSet i)) &&&
        ~~~flags = 0 ∧
      flags &&& ~~~(s.preSet i ||| s.postSet i) = 0

/-- An accessible operand in memory with read side effects is refused by name (R46). That any byte of the
operand counts, masked-off elements of a full-width operand included, is DEDUCED (log 25), and that
the operand's exceptions come first is a DESIGN CHOICE (log 27). -/
def Obligations.DeviceMemoryRefused : Prop :=
  ∀ (s : State) (i : Instr) (p : MemOperand), s.ready i → s.memOperand i = some p →
    s.operandAccessible i p →
    (∃ j < p.elems, (p.bcst = true → s.anyActive i = true) ∧ s.ordinary p.lin j = false) →
    exec i s = .refused .deviceMemory

/-- No instruction stops for any other reason: an execution answers a next state unless its memory
operand lies in device memory (R46). That one which raises an exception of R190 answers a next state,
where R209 and D10 make it a terminal outcome, is a DESIGN CHOICE (log 1); that any byte of the operand
counts as device memory, masked-off elements of a full-width operand included, is DEDUCED (log 25). -/
def Obligations.ExecGoesOn : Prop :=
  ∀ (s : State) (i : Instr), (∃ t, exec i s = .next t) ∨
    (exec i s = .refused .deviceMemory ∧
      ∃ p, s.memOperand i = some p ∧ ¬ s.operandOrdinary i p)

/-! ### What an execution leaves -/

/-- Any exception leaves every vector, opmask and general register, the pc and memory as they were;
MXCSR's flags change only in the SIMD case and CR2 only for `#PF`; the frame is the state's own
(R209, R190). -/
def Obligations.ExceptionLeavesState : Prop :=
  ∀ (s t : State) (i : Instr) (f : Raised), s.raised = none → exec i s = .next t → t.raised = some f →
    t = { s with mxcsr := t.mxcsr, cr2 := t.cr2, raised := some f, freeCount := t.freeCount } ∧
    t.mxcsr.extractLsb' 6 26 = s.mxcsr.extractLsb' 6 26 ∧
    (t.mxcsr ≠ s.mxcsr → f.vector = if s.cr4[10] then 19 else 6) ∧
    (t.cr2 ≠ s.cr2 → f.vector = 14) ∧
    s.frameAgrees f = true ∧ legalRaise s.cpl f = true ∧
    (f.vector = 14 → ∃ fc, s.pageFault t.cr2 = some (.pf t.cr2 fc) ∧ f.errorCode = some fc)

/-- A completed execution changes the destination register, MXCSR and the pc, and nothing else: no
opmask, general, segment, system or x87 register, no flag of RFLAGS, no byte of memory (R8, R13, R18,
R20, R21, R22, R23, R25, R243). -/
def Obligations.CompletionFrame : Prop :=
  ∀ (s t : State) (i : Instr), s.raised = none → exec i s = .next t → t.raised = none →
    t = { s with zmm := t.zmm, mxcsr := t.mxcsr
                 rip := truncMode s.mode (s.rip + BitVec.ofNat 64 i.length) } ∧
    (∀ n, n ≠ dstOf s.mode i → t.zmmReg n = s.zmmReg n) ∧
    (∀ a, Memory.readByte t.mem a = Memory.readByte s.mem a)

/-- MXCSR's flags are sticky: bits 31:6 and ZE never change, no flag is cleared, and a flag that is
already set changes nothing but itself (R16). -/
def Obligations.MxcsrFlagsSticky : Prop :=
  ∀ (s t : State) (i : Instr), exec i s = .next t →
    t.mxcsr.extractLsb' 6 26 = s.mxcsr.extractLsb' 6 26 ∧ t.mxcsr[2] = s.mxcsr[2] ∧
    s.mxcsr &&& ~~~t.mxcsr = 0 ∧
    ∀ flags : BitVec 6, exec i { s with mxcsr := s.mxcsr ||| flags.setWidth 32 } =
      .next { t with mxcsr := t.mxcsr ||| flags.setWidth 32 }

/-- An EVEX form that completes zeroes its destination from bit `VL/2` on, whatever the mask and `z`; one
that faults does not (R172). -/
def Obligations.EvexUpperBitsZeroed : Prop :=
  ∀ (s t : State) (i : Instr) (e : Evex), evexOf? i = some e → s.raised = none → exec i s = .next t →
    (t.raised = none → t.zmmReg (dstOf s.mode i) >>> ((vecLenOf i).bits / 2) = 0) ∧
    (t.raised ≠ none → t.zmm = s.zmm)

/-- Only the active lanes of a source register matter: its other elements, and its bits above `VL`,
influence neither result, flags nor traps (R12, R122). -/
def Obligations.InactiveLanesIrrelevant : Prop :=
  ∀ (s t : State) (i : Instr) (n : BitVec 5) (v : Zmm), srcOf s.mode i = some n → n ≠ dstOf s.mode i →
    (∀ j < (vecLenOf i).kl, s.activeLane i j = true → elem64 v j = elem64 (s.zmmReg n) j) →
    exec i s = .next t → exec i (s.setZmm n v) = .next (t.setZmm n v)

/-- Only bits `KL-1:0` of the selected opmask are read, no other opmask register matters, `K[0]` is never
a mask, and no opmask register is written (R13, R14, R171). -/
def Obligations.OpmaskBitsRead : Prop :=
  ∀ (s t : State) (i : Instr) (k' : Vector Word64 8),
    (∀ e, evexOf? i = some e → e.aaa ≠ 0 → ∀ j < (vecLenOf i).kl,
      (State.kReg { s with k := k' } e.aaa).getLsbD j = (s.kReg e.aaa).getLsbD j) →
    exec i s = .next t → t.k = s.k ∧ exec i { s with k := k' } = .next { t with k := k' }

/-- The x87 state, which holds the MMX registers, is neither read nor written (R25). -/
def Obligations.X87Untouched : Prop :=
  ∀ (s t : State) (i : Instr) (y : X87), exec i s = .next t →
    t.x87 = s.x87 ∧ exec i { s with x87 := y } = .next { t with x87 := y }

/-- RFLAGS is not written, and but for VM and AC none of its bits is read (R18). -/
def Obligations.RflagsNotUsed : Prop :=
  ∀ (s t : State) (i : Instr) (r : Word64), s.raised = none → exec i s = .next t →
    r[17] = s.rflags[17] → r[18] = s.rflags[18] →
    t.rflags = s.rflags ∧
    exec i { s with rflags := r } =
      .next { t with rflags := r, raised := t.raised.map (fun f => { f with rflags := r }) }

/-- A register form executes identically at every privilege level (R213). -/
def Obligations.PrivilegeLevelIrrelevant : Prop :=
  ∀ (s t : State) (i : Instr) (sel : BitVec 16), s.raised = none → s.memOperand i = none →
    exec i s = .next t →
    exec i { s with segs := { s.segs with cs := { s.segs.cs with selector := sel } } } =
      .next { t with
        segs := { t.segs with cs := { t.segs.cs with selector := sel } }
        raised := t.raised.map (fun f => { f with cs := sel }) }

/-- An EVEX form whose used mask bits are all 0 completes with no memory fault and MXCSR unchanged: the
low elements are kept or zeroed and the upper bits are zeroed (R171, R44). -/
def Obligations.AllZeroMaskCompletes : Prop :=
  ∀ (s : State) (i : Instr) (e : Evex), evexOf? i = some e → s.ready i →
    (∀ j < (vecLenOf i).kl, s.activeLane i j = false) → s.cfg.evexFaultSuppression = true →
    (∀ p, s.memOperand i = some p → s.operandOrdinary i p) →
    ∃ v, exec i s = .next (s.completed i (dstOf s.mode i) 0 v) ∧
      (∀ j < (vecLenOf i).kl, elem32 v j = if e.z then 0 else elem32 (s.zmmReg (dstOf s.mode i)) j) ∧
      v >>> ((vecLenOf i).bits / 2) = 0

/-- The 2-byte and 3-byte VEX spellings are one instruction, and `VEX.W` is ignored: the same next state
but for the pc, which counts one byte more (R69, R86). RIP-relative operands, whose address counts
the length, are left to `VexMemoryCompletes`. -/
def Obligations.VexSpellingsAgree : Prop :=
  ∀ (s t : State) (pfx : List Prefix) (r w : Bool) (vvvv : BitVec 4) (reg : BitVec 3) (rm : Rm),
    s.raised = none → pfx.length ≤ 5 → (∀ d, rm ≠ .mem (.dispOnly d)) →
    (exec (.vcvtpd2psVex128C5 pfx ⟨r, vvvv⟩ reg rm) s = .next t →
      exec (.vcvtpd2psVex128C4 pfx ⟨r, false, false, w, vvvv⟩ reg rm) s =
        .next (if t.raised = none then { t with rip := truncMode s.mode (t.rip + 1) } else t)) ∧
    (exec (.vcvtpd2psVex256C5 pfx ⟨r, vvvv⟩ reg rm) s = .next t →
      exec (.vcvtpd2psVex256C4 pfx ⟨r, false, false, w, vvvv⟩ reg rm) s =
        .next (if t.raised = none then { t with rip := truncMode s.mode (t.rip + 1) } else t))

/-! ### Taking an exception and returning -/

/-- Taking an exception records the frame R209 names, with the vector and error code of R190 and the
IDT entry's address in 64-bit mode, loads CR2 for `#PF`, and changes nothing else (the record is the
model's form of R209's outcome, log 1; the number of `#DB` is PRESUMED, log 17). -/
def Obligations.RaiseRecordsFrame : Prop :=
  ∀ (s : State) (e : Exn), ∃ f, (s.raise e).raised = some f ∧
    f.ss = s.segs.ss.selector ∧ f.rsp = s.gpr[4] ∧ f.rflags = s.rflags ∧ f.cs = s.segs.cs.selector ∧
    f.rip = s.rip ∧
    (s.mode = .long64 → f.gate = some (s.idtrBase + BitVec.ofNat 64 (16 * f.vector.toNat))) ∧
    (f.vector, f.errorCode) =
      (match e with
      | .ud => (6, none)
      | .nm => (7, none)
      | .ss => (12, some 0)
      | .gp => (13, some 0)
      | .pf _ fc => (14, some fc)
      | .ac => (17, some 0)
      | .xm => (19, none)
      | .db => (1, none)) ∧
    s.raise e = { s with raised := some f, cr2 := (match e with | .pf a _ => a | _ => s.cr2) }

/-- A handler's return restores what the frame holds, so the pc is at the instruction again; only CR2
keeps the fault (R209, R210). That nothing else differs, memory included, rests on the model's form of
the frame and of the return, which leaves delivery out (DESIGN CHOICE, log 1). -/
def Obligations.IretRestores : Prop :=
  ∀ (s : State) (e : Exn), s.raised = none →
    (s.raise e).iret = { s with cr2 := (match e with | .pf a _ => a | _ => s.cr2) }

/-- After a return without a change of operands or masks the instruction faults again, and leaves the
same state as the first time (R210; under `PrePost` only). `State.iret` is the model's form of the
return (log 1). -/
def Obligations.RestartFaultsAgain : Prop :=
  ∀ (s t : State) (i : Instr) (f : Raised), s.raised = none → s.cfg.xmPolicy = .prePost →
    exec i s = .next t → t.raised = some f → exec i t.iret = .next t

/-- A state whose exception is not delivered has no step but R209's terminal outcome (log 1). -/
def Obligations.UndeliveredExceptionIsTerminal : Prop :=
  ∀ (s : State) (f : Raised), s.raised = some f → step s = .fault (.exception f.vector f.errorCode)

/-! ### Reset and the invariant -/

/-- What RESET leaves, and that no form can execute with these values: every one is `#UD`, or `#GP(0)`
where it is longer than 15 bytes (R30, R88). The mode is read through bit positions that the model
presumes (log 6). -/
def Obligations.ResetLeaves : Prop :=
  (∀ n, State.reset.zmmReg n = 0) ∧ (∀ a, State.reset.kReg a = 0) ∧ State.reset.mxcsr = 0x1F80 ∧
  (∀ n : BitVec 4, n ≠ 2 → State.reset.x n = 0) ∧ State.reset.rip = 0xFFF0 ∧
  State.reset.segs.cs.base = 0xFFFF0000 ∧ State.reset.mode = .real ∧ State.reset.cr0 = 0x60000010 ∧
  State.reset.cr4 = 0 ∧ State.reset.xcr0 = 1 ∧
  (∀ i : Instr, exec i State.reset = .next (State.reset.raise (if 15 < i.length then .gp else .ud)))

/-- INIT keeps the vector registers, the opmask registers and MXCSR (R230), and resets what R30 lists
besides them and the segment registers (DEDUCED, log 26). -/
def Obligations.InitKeepsVectors : Prop :=
  ∀ s : State, s.afterInit.zmm = s.zmm ∧ s.afterInit.k = s.k ∧ s.afterInit.mxcsr = s.mxcsr ∧
    s.afterInit.gpr = State.reset.gpr ∧ s.afterInit.rip = State.reset.rip ∧
    s.afterInit.cr0 = State.reset.cr0 ∧ s.afterInit.cr4 = State.reset.cr4 ∧
    s.afterInit.xcr0 = State.reset.xcr0 ∧ s.afterInit.segs = State.reset.segs ∧
    s.afterInit.mode = .real ∧ s.afterInit.raised = none

/-- The reset state has the invariant. -/
def Obligations.ResetHasInvariant : Prop := State.reset.inv

/-- Every step keeps the invariant: canonical memory, `MXCSR[31:16] = 0`, no register bit above `MAX_VL`, a
pending exception that is one of R190 or the `#DB` of R214 with this state's frame, EIP of 32 bits
outside 64-bit mode (R10, R17, R22, R190, R209, R214; the number of `#DB` is PRESUMED, log 17, and a
breakpoint raises it as log 16 says). -/
def Obligations.StepKeepsInvariant : Prop :=
  ∀ s t : State, s.inv → step s = .next t → t.inv

/-! ### Memory operands -/

/-- `MemRead` is little-endian and sees the same bytes at every width (R40). That the byte addresses wrap
in the mode's address width is the model's reading of R48, R49 and R240 (DEDUCED, log 15). -/
def Obligations.MemReadLittleEndian : Prop :=
  ∀ (s : State) (lin : Word64) (n : Nat), n ≤ 64 →
    (∀ t < n, (s.memRead lin n).extractLsb' (8 * t) 8 =
      Memory.readByte s.mem (truncMode s.mode (lin + BitVec.ofNat 64 t)).toNat) ∧
    s.memRead lin n >>> (8 * n) = 0 ∧
    (∀ j, 8 * j + 8 ≤ n → elem64 (s.memRead lin n) j =
      elem64 (s.memRead (lin + BitVec.ofNat 64 (8 * j)) 8) 0)

/-- Addressing in 64-bit mode, with 64-bit addresses or, under a 67 prefix, 32-bit ones: the linear
address is the segment base plus the effective address, and only FS and GS have a base; FS and GS
overrides replace the default segment, the last of them winning (log 14), and ES, CS, SS and DS
overrides are ignored; every form of base, scaled index and displacement, RIP-relative from the next
instruction, `disp8` multiplied by `N`; the default segments. And 32-bit addressing outside 64-bit
mode: no extension bits, and a displacement alone is absolute (R21, R49, R62, R77, R79, R80, R81). -/
def Obligations.EffectiveAddressLong64 : Prop :=
  ∀ (s : State) (pfx : List Prefix) (ext : Ext) (n len : Nat),
    (s.mode = .long64 →
      (∀ a, s.linear pfx ext n len a =
        (if operandSeg s.mode pfx ext a = .fs then s.segs.fs.base
          else if operandSeg s.mode pfx ext a = .gs then s.segs.gs.base else 0) +
          s.effectiveAddr (if Prefix.addrSize ∈ pfx then .a32 else .a64) ext n len a) ∧
      (∀ a before after r, r = Seg.fs ∨ r = Seg.gs → pfx = before ++ .seg r :: after →
        Prefix.seg .fs ∉ after → Prefix.seg .gs ∉ after → operandSeg s.mode pfx ext a = r) ∧
      (∀ a, Prefix.seg .fs ∉ pfx → Prefix.seg .gs ∉ pfx → operandSeg s.mode pfx ext a = defaultSeg s.mode ext a) ∧
      (∀ sz, sz ≠ AddrSize.a16 →
        (∀ rm d, ((s.effectiveAddr sz ext n len (.base rm d)).toNat : Int) =
          (s.xInt (BitVec.ofBool ext.b ++ rm) + dispInt n d) % 2 ^ addrBits sz) ∧
        (∀ d, ((s.effectiveAddr sz ext n len (.dispOnly d)).toNat : Int) =
          (s.rip.toNat + len + d.toInt) % 2 ^ addrBits sz) ∧
        (∀ sc i b d, ((s.effectiveAddr sz ext n len (.sib sc i b d)).toNat : Int) =
          (s.xInt (BitVec.ofBool ext.b ++ b) + s.indexInt sc (BitVec.ofBool ext.x ++ i) + dispInt n d) %
            2 ^ addrBits sz) ∧
        (∀ sc i d, ((s.effectiveAddr sz ext n len (.sibNoBase sc i d)).toNat : Int) =
          (s.indexInt sc (BitVec.ofBool ext.x ++ i) + d.toInt) % 2 ^ addrBits sz)) ∧
      (∀ rm d, defaultSeg s.mode ext (.base rm d) =
        if (BitVec.ofBool ext.b ++ rm : BitVec 4) = 5 then .ss else .ds) ∧
      (∀ sc i b d, defaultSeg s.mode ext (.sib sc i b d) =
        if (BitVec.ofBool ext.b ++ b : BitVec 4) = 4 ∨ (BitVec.ofBool ext.b ++ b : BitVec 4) = 5 then .ss else .ds)) ∧
    (s.mode ≠ .long64 →
      (∀ rm d, ((s.effectiveAddr .a32 ext n len (.base rm d)).toNat : Int) =
        (s.xInt (0#1 ++ rm) + dispInt n d) % 2 ^ 32) ∧
      (∀ d, (s.effectiveAddr .a32 ext n len (.dispOnly d)).toNat = d.toNat) ∧
      (∀ sc i b d, ((s.effectiveAddr .a32 ext n len (.sib sc i b d)).toNat : Int) =
        (s.xInt (0#1 ++ b) + s.indexInt sc (0#1 ++ i) + dispInt n d) % 2 ^ 32) ∧
      (∀ sc i d, ((s.effectiveAddr .a32 ext n len (.sibNoBase sc i d)).toNat : Int) =
        (s.indexInt sc (0#1 ++ i) + d.toInt) % 2 ^ 32) ∧
      (∀ rm d, defaultSeg s.mode ext (.base rm d) = if rm = 5 then .ss else .ds) ∧
      (∀ sc i b d, defaultSeg s.mode ext (.sib sc i b d) = if b = 4 ∨ b = 5 then .ss else .ds)) ∧
    (∀ d, defaultSeg s.mode ext (.dispOnly d) = .ds) ∧
    (∀ sc i d, defaultSeg s.mode ext (.sibNoBase sc i d) = .ds)

/-- 16-bit addressing: the eight register sums modulo 2^16 with every displacement, `disp8` multiplied by
`N`, and SS when BP takes part (R82). And the linear address outside 64-bit mode: the segment's base
plus the effective address modulo 2^32, 16-bit addresses under a 67 prefix (in real-address and
virtual-8086 mode without one: PRESUMED, log 7), and any override replacing the default segment, the
last one winning (R49, R62; of FS and GS R62 does not say that the last one wins: DEDUCED, log 14). -/
def Obligations.EffectiveAddress16 : Prop :=
  ∀ (s : State) (pfx : List Prefix) (ext : Ext) (n len : Nat),
    (∀ rm d, ((s.effectiveAddr .a16 ext n len (.base16 rm d)).toNat : Int) =
      ((if rm = 0 ∨ rm = 1 ∨ rm = 7 then s.xInt 3 else if rm = 2 ∨ rm = 3 ∨ rm = 6 then s.xInt 5 else 0) +
        (if rm = 0 ∨ rm = 2 ∨ rm = 4 then s.xInt 6 else if rm = 1 ∨ rm = 3 ∨ rm = 5 then s.xInt 7 else 0) +
        disp16Int n d) % 2 ^ 16) ∧
    (∀ d, (s.effectiveAddr .a16 ext n len (.dispOnly16 d)).toNat = d.toNat) ∧
    (∀ rm d, defaultSeg s.mode ext (.base16 rm d) = if rm = 2 ∨ rm = 3 ∨ rm = 6 then .ss else .ds) ∧
    (∀ d, defaultSeg s.mode ext (.dispOnly16 d) = .ds) ∧
    (s.mode ≠ .long64 →
      (∀ a, (s.linear pfx ext n len a).toNat =
        ((match operandSeg s.mode pfx ext a with
          | .es => s.segs.es.base
          | .cs => s.segs.cs.base
          | .ss => s.segs.ss.base
          | .ds => s.segs.ds.base
          | .fs => s.segs.fs.base
          | .gs => s.segs.gs.base).toNat +
          (s.effectiveAddr
            (if Prefix.addrSize ∈ pfx ↔ (s.mode = .real ∨ s.mode = .v86) then .a32 else .a16)
            ext n len a).toNat) % 2 ^ 32) ∧
      (∀ a before after r, pfx = before ++ .seg r :: after → (∀ q, Prefix.seg q ∉ after) →
        operandSeg s.mode pfx ext a = r) ∧
      (∀ a, (∀ q, Prefix.seg q ∉ pfx) → operandSeg s.mode pfx ext a = defaultSeg s.mode ext a))

/-! ### The conversion -/

/-- `RoundInt` rounds `m * 2^p`: exactly when `p` is not negative; otherwise to one of the two neighbours,
by the mode, and says whether it was inexact (R103). -/
def Obligations.RoundIntRounds : Prop :=
  ∀ (m : Nat) (rc : Rounding) (s : Bool),
    (∀ k : Nat, roundInt m k rc s = (m * 2 ^ k, false)) ∧
    (∀ d : Nat, 0 < d →
      ((roundInt m (-(d : Int)) rc s).2 = true ↔ ¬ 2 ^ d ∣ m) ∧
      (2 ^ d ∣ m → (roundInt m (-(d : Int)) rc s).1 * 2 ^ d = m) ∧
      (¬ 2 ^ d ∣ m → roundsAway rc s = true → (roundInt m (-(d : Int)) rc s).1 = m / 2 ^ d + 1) ∧
      (¬ 2 ^ d ∣ m → rc ≠ .nearest → roundsAway rc s = false →
        (roundInt m (-(d : Int)) rc s).1 = m / 2 ^ d) ∧
      (rc = .nearest →
        |2 * (((roundInt m (-(d : Int)) rc s).1 : Int) * 2 ^ d) - 2 * m| ≤ 2 ^ d ∧
        (|2 * (((roundInt m (-(d : Int)) rc s).1 : Int) * 2 ^ d) - 2 * m| = 2 ^ d →
          (roundInt m (-(d : Int)) rc s).1 % 2 = 0)))

/-- A NaN becomes quiet: sign kept, the upper 23 fraction bits with the top one set; only a signaling NaN
detects `IE` (R111). -/
def Obligations.NanConverted : Prop :=
  ∀ (x : Word64) (env : CvtEnv), x.extractLsb' 52 11 = 2047 → x.extractLsb' 0 52 ≠ 0 →
    (cvt x env).r = BitVec.ofBool x[63] ++ (0xFF#8 ++ (0b1#1 ++ x.extractLsb' 29 22)) ∧
    (cvt x env).pre = (if x[51] then 0 else 0b000001) ∧ (cvt x env).post = 0

/-- A denormal source under `DAZ` is a zero that detects nothing; otherwise it detects `DE` and, with
underflow masked, becomes 0 or the smallest denormal by the mode, or 0 under `FTZ`, with `UE` and
`PE` (R112). -/
def Obligations.DenormalConverted : Prop :=
  ∀ (x : Word64) (env : CvtEnv), x.extractLsb' 52 11 = 0 → x.extractLsb' 0 52 ≠ 0 →
    (env.daz = true → cvt x env = ⟨BitVec.ofBool x[63] ++ 0#31, 0, 0⟩) ∧
    (env.daz = false → (cvt x env).pre = 0b000010 ∧
      (env.um = true → (cvt x env).post = 0b110000 ∧
        (cvt x env).r = BitVec.ofBool x[63] ++
          (if env.ftz = false ∧ roundsAway env.rc x[63] = true then 1#31 else 0#31)))

/-- Overflow: where it begins under each mode, the masked results, and `PE` with it (R113). -/
def Obligations.OverflowDetected : Prop :=
  ∀ (x : Word64) (env : CvtEnv), x.extractLsb' 52 11 ≠ 2047 →
    ((cvt x env).post &&& 0b001000 ≠ 0 ↔ overflowAt env.rc x[63] (dblMag x)) ∧
    ((cvt x env).post &&& 0b001000 ≠ 0 →
      (cvt x env).post = (if env.om = true ∨ x.extractLsb' 0 29 ≠ 0 then 0b101000 else 0b001000) ∧
      (cvt x env).r = BitVec.ofBool x[63] ++
        (if env.rc = .nearest ∨ roundsAway env.rc x[63] = true then 0x7F800000#31 else 0x7F7FFFFF#31))

/-- Tininess is detected after rounding: where it begins under each mode; what it detects with underflow
unmasked (`UE`, and `PE` only if the rounding to 24 bits is inexact), masked, and under `FTZ` (R114; the
last clause for `FTZ_FLUSHES_EXACT_TINY` true, log 10). -/
def Obligations.UnderflowDetected : Prop :=
  ∀ (x : Word64) (env : CvtEnv), x.extractLsb' 52 11 ≠ 2047 → dblMag x ≠ 0 →
    ¬ (env.daz = true ∧ x.extractLsb' 52 11 = 0) →
    (env.um = false →
      ((cvt x env).post &&& 0b010000 ≠ 0 ↔ tinyAt env.rc x[63] (dblMag x)) ∧
      (tinyAt env.rc x[63] (dblMag x) →
        (cvt x env).post =
          if 2 ^ (Nat.log2 (dblScaled x).natAbs - 23) ∣ (dblScaled x).natAbs then 0b010000 else 0b110000)) ∧
    (env.um = true → env.ftz = false →
      ((cvt x env).post &&& 0b010000 ≠ 0 ↔
        tinyAt env.rc x[63] (dblMag x) ∧ ¬ (2 ^ 925 : Int) ∣ dblScaled x) ∧
      (tinyAt env.rc x[63] (dblMag x) →
        (cvt x env).post = if (2 ^ 925 : Int) ∣ dblScaled x then 0 else 0b110000)) ∧
    (env.um = true → env.ftz = true → env.flushExact = true → tinyAt env.rc x[63] (dblMag x) →
      (cvt x env).r = BitVec.ofBool x[63] ++ 0#31 ∧ (cvt x env).post = 0b110000)

/-- A conversion detects nothing exactly for a zero (or a denormal under `DAZ`), an infinity, a quiet NaN,
a single-precision normal number, or an exact denormal result that is neither flushed nor
unmasked (R110, R115; log 20 says where R115's last words and R110 part). That an exact tiny result
under FTZ detects nothing when `FTZ_FLUSHES_EXACT_TINY` is false is DEDUCED (log 10). -/
def Obligations.NothingDetectedExactly : Prop :=
  ∀ (x : Word64) (env : CvtEnv),
    ((cvt x env).pre = 0 ∧ (cvt x env).post = 0) ↔
      (dblMag x = 0 ∨ (env.daz = true ∧ x.extractLsb' 52 11 = 0) ∨
        (x.extractLsb' 52 11 = 2047 ∧ (x.extractLsb' 0 52 = 0 ∨ x[51] = true)) ∨
        (897 ≤ (x.extractLsb' 52 11).toNat ∧ (x.extractLsb' 52 11).toNat ≤ 1150 ∧ x.extractLsb' 0 29 = 0) ∨
        (dblMag x < 0x3810000000000000 ∧ (2 ^ 925 : Int) ∣ dblScaled x ∧ env.um = true ∧
          (env.ftz = false ∨ env.flushExact = false)))

/-- Properties P2 to P5: the condition sets, the exact normal results, zeros and infinities, and the
sign (R124). -/
def Obligations.ConversionProperties : Prop :=
  ∀ (x : Word64) (env : CvtEnv),
    (cvt x env).pre &&& ~~~0b000011 = 0 ∧ (cvt x env).post &&& ~~~0b111000 = 0 ∧
    (897 ≤ (x.extractLsb' 52 11).toNat → (x.extractLsb' 52 11).toNat ≤ 1150 → x.extractLsb' 0 29 = 0 →
      cvt x env = ⟨BitVec.ofBool x[63] ++ (BitVec.ofNat 8 ((x.extractLsb' 52 11).toNat - 896) ++ x.extractLsb' 29 23),
        0, 0⟩) ∧
    (dblMag x = 0 → cvt x env = ⟨BitVec.ofBool x[63] ++ 0#31, 0, 0⟩) ∧
    (dblMag x = 0x7FF0000000000000 → cvt x env = ⟨BitVec.ofBool x[63] ++ 0x7F800000#31, 0, 0⟩) ∧
    (cvt x env).r[31] = x[63]

/-- Property P6: for a fixed environment the conversion of non-NaN sources is monotone (R124); flushing
must take every tiny result or none. -/
def Obligations.ConversionMonotone : Prop :=
  ∀ (x y : Word64) (env : CvtEnv), dblMag x ≤ 0x7FF0000000000000 → dblMag y ≤ 0x7FF0000000000000 →
    (env.ftz = false ∨ env.um = false ∨ env.flushExact = true) →
    dblKey x ≤ dblKey y → sglKey (cvt x env).r ≤ sglKey (cvt y env).r

/-- Property P7: round to nearest gives the finite single-precision number nearest to the source, and on
a tie the one with an even last bit (R102, R110, R124). -/
def Obligations.NearestIsNearest : Prop :=
  ∀ (x : Word64) (env : CvtEnv), x.extractLsb' 52 11 ≠ 2047 → env.rc = .nearest →
    ¬ (env.daz = true ∧ x.extractLsb' 52 11 = 0) → (env.ftz = false ∨ env.um = false) →
    (cvt x env).post &&& 0b001000 = 0 →
    (cvt x env).r.extractLsb' 23 8 ≠ 255 ∧
    ∀ r : Single, r.extractLsb' 23 8 ≠ 255 →
      |sglScaled (cvt x env).r - dblScaled x| ≤ |sglScaled r - dblScaled x| ∧
      (|sglScaled (cvt x env).r - dblScaled x| = |sglScaled r - dblScaled x| →
        sglScaled r ≠ sglScaled (cvt x env).r → (cvt x env).r[0] = false)

/-- The directed modes give the greatest single-precision number not above the source, or the least not
below it (R102, R103, R110). -/
def Obligations.DirectedRoundingIsTight : Prop :=
  ∀ (x : Word64) (env : CvtEnv), x.extractLsb' 52 11 ≠ 2047 → env.rc ≠ .nearest →
    ¬ (env.daz = true ∧ x.extractLsb' 52 11 = 0) → (env.ftz = false ∨ env.um = false) →
    (cvt x env).post &&& 0b001000 = 0 →
    (cvt x env).r.extractLsb' 23 8 ≠ 255 ∧
    (if env.rc = .down ∨ (env.rc = .zero ∧ x[63] = false) then
      sglScaled (cvt x env).r ≤ dblScaled x ∧
      ∀ r : Single, r.extractLsb' 23 8 ≠ 255 → sglScaled r ≤ dblScaled x →
        sglScaled r ≤ sglScaled (cvt x env).r
    else
      dblScaled x ≤ sglScaled (cvt x env).r ∧
      ∀ r : Single, r.extractLsb' 23 8 ≠ 255 → dblScaled x ≤ sglScaled r →
        sglScaled (cvt x env).r ≤ sglScaled r)

end SliceZero
end

