-- ==== Sys2Proof/Laws/State.lean ====
section
/-! SUPPORT. One lemma per field per update of the state, and the derived readers under each update. -/

namespace Sys2Proof.Machine

/-! ### `State.setZmm` -/

@[simp] theorem State.setZmm_zmm (s : State) (n : BitVec 5) (v : Zmm) : (s.setZmm n v).zmm = s.zmm.set n.toNat v n.isLt := rfl
@[simp] theorem State.setZmm_k (s : State) (n : BitVec 5) (v : Zmm) : (s.setZmm n v).k = s.k := rfl
@[simp] theorem State.setZmm_mxcsr (s : State) (n : BitVec 5) (v : Zmm) : (s.setZmm n v).mxcsr = s.mxcsr := rfl
@[simp] theorem State.setZmm_gpr (s : State) (n : BitVec 5) (v : Zmm) : (s.setZmm n v).gpr = s.gpr := rfl
@[simp] theorem State.setZmm_rip (s : State) (n : BitVec 5) (v : Zmm) : (s.setZmm n v).rip = s.rip := rfl
@[simp] theorem State.setZmm_segs (s : State) (n : BitVec 5) (v : Zmm) : (s.setZmm n v).segs = s.segs := rfl
@[simp] theorem State.setZmm_csL (s : State) (n : BitVec 5) (v : Zmm) : (s.setZmm n v).csL = s.csL := rfl
@[simp] theorem State.setZmm_rflags (s : State) (n : BitVec 5) (v : Zmm) : (s.setZmm n v).rflags = s.rflags := rfl
@[simp] theorem State.setZmm_cr0 (s : State) (n : BitVec 5) (v : Zmm) : (s.setZmm n v).cr0 = s.cr0 := rfl
@[simp] theorem State.setZmm_cr2 (s : State) (n : BitVec 5) (v : Zmm) : (s.setZmm n v).cr2 = s.cr2 := rfl
@[simp] theorem State.setZmm_cr4 (s : State) (n : BitVec 5) (v : Zmm) : (s.setZmm n v).cr4 = s.cr4 := rfl
@[simp] theorem State.setZmm_xcr0 (s : State) (n : BitVec 5) (v : Zmm) : (s.setZmm n v).xcr0 = s.xcr0 := rfl
@[simp] theorem State.setZmm_efer (s : State) (n : BitVec 5) (v : Zmm) : (s.setZmm n v).efer = s.efer := rfl
@[simp] theorem State.setZmm_dr7 (s : State) (n : BitVec 5) (v : Zmm) : (s.setZmm n v).dr7 = s.dr7 := rfl
@[simp] theorem State.setZmm_idtrBase (s : State) (n : BitVec 5) (v : Zmm) : (s.setZmm n v).idtrBase = s.idtrBase := rfl
@[simp] theorem State.setZmm_x87 (s : State) (n : BitVec 5) (v : Zmm) : (s.setZmm n v).x87 = s.x87 := rfl
@[simp] theorem State.setZmm_mem (s : State) (n : BitVec 5) (v : Zmm) : (s.setZmm n v).mem = s.mem := rfl
@[simp] theorem State.setZmm_raised (s : State) (n : BitVec 5) (v : Zmm) : (s.setZmm n v).raised = s.raised := rfl
@[simp] theorem State.setZmm_cfg (s : State) (n : BitVec 5) (v : Zmm) : (s.setZmm n v).cfg = s.cfg := rfl
@[simp] theorem State.setZmm_freeCount (s : State) (n : BitVec 5) (v : Zmm) : (s.setZmm n v).freeCount = s.freeCount := rfl
@[simp] theorem State.setZmm_mode (s : State) (n : BitVec 5) (v : Zmm) : (s.setZmm n v).mode = s.mode := rfl
@[simp] theorem State.setZmm_cpl (s : State) (n : BitVec 5) (v : Zmm) : (s.setZmm n v).cpl = s.cpl := rfl
@[simp] theorem State.setZmm_em (s : State) (n : BitVec 5) (v : Zmm) : (s.setZmm n v).em = s.em := rfl
@[simp] theorem State.setZmm_ts (s : State) (n : BitVec 5) (v : Zmm) : (s.setZmm n v).ts = s.ts := rfl
@[simp] theorem State.setZmm_am (s : State) (n : BitVec 5) (v : Zmm) : (s.setZmm n v).am = s.am := rfl
@[simp] theorem State.setZmm_osfxsr (s : State) (n : BitVec 5) (v : Zmm) : (s.setZmm n v).osfxsr = s.osfxsr := rfl
@[simp] theorem State.setZmm_osxmmexcpt (s : State) (n : BitVec 5) (v : Zmm) : (s.setZmm n v).osxmmexcpt = s.osxmmexcpt := rfl
@[simp] theorem State.setZmm_osxsave (s : State) (n : BitVec 5) (v : Zmm) : (s.setZmm n v).osxsave = s.osxsave := rfl
@[simp] theorem State.setZmm_avxState (s : State) (n : BitVec 5) (v : Zmm) : (s.setZmm n v).avxState = s.avxState := rfl
@[simp] theorem State.setZmm_avx512State (s : State) (n : BitVec 5) (v : Zmm) : (s.setZmm n v).avx512State = s.avx512State := rfl
@[simp] theorem State.setZmm_tf (s : State) (n : BitVec 5) (v : Zmm) : (s.setZmm n v).tf = s.tf := rfl
@[simp] theorem State.setZmm_vm (s : State) (n : BitVec 5) (v : Zmm) : (s.setZmm n v).vm = s.vm := rfl
@[simp] theorem State.setZmm_ac (s : State) (n : BitVec 5) (v : Zmm) : (s.setZmm n v).ac = s.ac := rfl
@[simp] theorem State.setZmm_acOn (s : State) (n : BitVec 5) (v : Zmm) : (s.setZmm n v).acOn = s.acOn := rfl
@[simp] theorem State.setZmm_breakpointArmed (s : State) (n : BitVec 5) (v : Zmm) : (s.setZmm n v).breakpointArmed = s.breakpointArmed := rfl
@[simp] theorem State.setZmm_realOrV86 (s : State) (n : BitVec 5) (v : Zmm) : (s.setZmm n v).realOrV86 = s.realOrV86 := rfl
@[simp] theorem State.setZmm_simdFp (s : State) (n : BitVec 5) (v : Zmm) : (s.setZmm n v).simdFp = s.simdFp := rfl
@[simp] theorem State.setZmm_x (s : State) (n : BitVec 5) (v : Zmm) (i : BitVec 4) : (s.setZmm n v).x i = s.x i := rfl
@[simp] theorem State.setZmm_kReg (s : State) (n : BitVec 5) (v : Zmm) (a : BitVec 3) : (s.setZmm n v).kReg a = s.kReg a := rfl

/-! ### `State.advance` -/

@[simp] theorem State.advance_zmm (s : State) (len : Nat) : (s.advance len).zmm = s.zmm := rfl
@[simp] theorem State.advance_k (s : State) (len : Nat) : (s.advance len).k = s.k := rfl
@[simp] theorem State.advance_mxcsr (s : State) (len : Nat) : (s.advance len).mxcsr = s.mxcsr := rfl
@[simp] theorem State.advance_gpr (s : State) (len : Nat) : (s.advance len).gpr = s.gpr := rfl
@[simp] theorem State.advance_rip (s : State) (len : Nat) : (s.advance len).rip = s.nextRip len := rfl
@[simp] theorem State.advance_segs (s : State) (len : Nat) : (s.advance len).segs = s.segs := rfl
@[simp] theorem State.advance_csL (s : State) (len : Nat) : (s.advance len).csL = s.csL := rfl
@[simp] theorem State.advance_rflags (s : State) (len : Nat) : (s.advance len).rflags = s.rflags := rfl
@[simp] theorem State.advance_cr0 (s : State) (len : Nat) : (s.advance len).cr0 = s.cr0 := rfl
@[simp] theorem State.advance_cr2 (s : State) (len : Nat) : (s.advance len).cr2 = s.cr2 := rfl
@[simp] theorem State.advance_cr4 (s : State) (len : Nat) : (s.advance len).cr4 = s.cr4 := rfl
@[simp] theorem State.advance_xcr0 (s : State) (len : Nat) : (s.advance len).xcr0 = s.xcr0 := rfl
@[simp] theorem State.advance_efer (s : State) (len : Nat) : (s.advance len).efer = s.efer := rfl
@[simp] theorem State.advance_dr7 (s : State) (len : Nat) : (s.advance len).dr7 = s.dr7 := rfl
@[simp] theorem State.advance_idtrBase (s : State) (len : Nat) : (s.advance len).idtrBase = s.idtrBase := rfl
@[simp] theorem State.advance_x87 (s : State) (len : Nat) : (s.advance len).x87 = s.x87 := rfl
@[simp] theorem State.advance_mem (s : State) (len : Nat) : (s.advance len).mem = s.mem := rfl
@[simp] theorem State.advance_raised (s : State) (len : Nat) : (s.advance len).raised = s.raised := rfl
@[simp] theorem State.advance_cfg (s : State) (len : Nat) : (s.advance len).cfg = s.cfg := rfl
@[simp] theorem State.advance_freeCount (s : State) (len : Nat) : (s.advance len).freeCount = s.freeCount := rfl
@[simp] theorem State.advance_mode (s : State) (len : Nat) : (s.advance len).mode = s.mode := rfl
@[simp] theorem State.advance_cpl (s : State) (len : Nat) : (s.advance len).cpl = s.cpl := rfl
@[simp] theorem State.advance_em (s : State) (len : Nat) : (s.advance len).em = s.em := rfl
@[simp] theorem State.advance_ts (s : State) (len : Nat) : (s.advance len).ts = s.ts := rfl
@[simp] theorem State.advance_am (s : State) (len : Nat) : (s.advance len).am = s.am := rfl
@[simp] theorem State.advance_osfxsr (s : State) (len : Nat) : (s.advance len).osfxsr = s.osfxsr := rfl
@[simp] theorem State.advance_osxmmexcpt (s : State) (len : Nat) : (s.advance len).osxmmexcpt = s.osxmmexcpt := rfl
@[simp] theorem State.advance_osxsave (s : State) (len : Nat) : (s.advance len).osxsave = s.osxsave := rfl
@[simp] theorem State.advance_avxState (s : State) (len : Nat) : (s.advance len).avxState = s.avxState := rfl
@[simp] theorem State.advance_avx512State (s : State) (len : Nat) : (s.advance len).avx512State = s.avx512State := rfl
@[simp] theorem State.advance_tf (s : State) (len : Nat) : (s.advance len).tf = s.tf := rfl
@[simp] theorem State.advance_vm (s : State) (len : Nat) : (s.advance len).vm = s.vm := rfl
@[simp] theorem State.advance_ac (s : State) (len : Nat) : (s.advance len).ac = s.ac := rfl
@[simp] theorem State.advance_acOn (s : State) (len : Nat) : (s.advance len).acOn = s.acOn := rfl
@[simp] theorem State.advance_breakpointArmed (s : State) (len : Nat) : (s.advance len).breakpointArmed = s.breakpointArmed := rfl
@[simp] theorem State.advance_realOrV86 (s : State) (len : Nat) : (s.advance len).realOrV86 = s.realOrV86 := rfl
@[simp] theorem State.advance_simdFp (s : State) (len : Nat) : (s.advance len).simdFp = s.simdFp := rfl
@[simp] theorem State.advance_x (s : State) (len : Nat) (i : BitVec 4) : (s.advance len).x i = s.x i := rfl
@[simp] theorem State.advance_kReg (s : State) (len : Nat) (a : BitVec 3) : (s.advance len).kReg a = s.kReg a := rfl
@[simp] theorem State.advance_zmmReg (s : State) (len : Nat) (m : BitVec 5) : (s.advance len).zmmReg m = s.zmmReg m := rfl

/-! ### `State.setMxcsr` -/

@[simp] theorem State.setMxcsr_zmm (s : State) (v : BitVec 32) : (s.setMxcsr v).zmm = s.zmm := rfl
@[simp] theorem State.setMxcsr_k (s : State) (v : BitVec 32) : (s.setMxcsr v).k = s.k := rfl
@[simp] theorem State.setMxcsr_mxcsr (s : State) (v : BitVec 32) : (s.setMxcsr v).mxcsr = v := rfl
@[simp] theorem State.setMxcsr_gpr (s : State) (v : BitVec 32) : (s.setMxcsr v).gpr = s.gpr := rfl
@[simp] theorem State.setMxcsr_rip (s : State) (v : BitVec 32) : (s.setMxcsr v).rip = s.rip := rfl
@[simp] theorem State.setMxcsr_segs (s : State) (v : BitVec 32) : (s.setMxcsr v).segs = s.segs := rfl
@[simp] theorem State.setMxcsr_csL (s : State) (v : BitVec 32) : (s.setMxcsr v).csL = s.csL := rfl
@[simp] theorem State.setMxcsr_rflags (s : State) (v : BitVec 32) : (s.setMxcsr v).rflags = s.rflags := rfl
@[simp] theorem State.setMxcsr_cr0 (s : State) (v : BitVec 32) : (s.setMxcsr v).cr0 = s.cr0 := rfl
@[simp] theorem State.setMxcsr_cr2 (s : State) (v : BitVec 32) : (s.setMxcsr v).cr2 = s.cr2 := rfl
@[simp] theorem State.setMxcsr_cr4 (s : State) (v : BitVec 32) : (s.setMxcsr v).cr4 = s.cr4 := rfl
@[simp] theorem State.setMxcsr_xcr0 (s : State) (v : BitVec 32) : (s.setMxcsr v).xcr0 = s.xcr0 := rfl
@[simp] theorem State.setMxcsr_efer (s : State) (v : BitVec 32) : (s.setMxcsr v).efer = s.efer := rfl
@[simp] theorem State.setMxcsr_dr7 (s : State) (v : BitVec 32) : (s.setMxcsr v).dr7 = s.dr7 := rfl
@[simp] theorem State.setMxcsr_idtrBase (s : State) (v : BitVec 32) : (s.setMxcsr v).idtrBase = s.idtrBase := rfl
@[simp] theorem State.setMxcsr_x87 (s : State) (v : BitVec 32) : (s.setMxcsr v).x87 = s.x87 := rfl
@[simp] theorem State.setMxcsr_mem (s : State) (v : BitVec 32) : (s.setMxcsr v).mem = s.mem := rfl
@[simp] theorem State.setMxcsr_raised (s : State) (v : BitVec 32) : (s.setMxcsr v).raised = s.raised := rfl
@[simp] theorem State.setMxcsr_cfg (s : State) (v : BitVec 32) : (s.setMxcsr v).cfg = s.cfg := rfl
@[simp] theorem State.setMxcsr_freeCount (s : State) (v : BitVec 32) : (s.setMxcsr v).freeCount = s.freeCount := rfl
@[simp] theorem State.setMxcsr_mode (s : State) (v : BitVec 32) : (s.setMxcsr v).mode = s.mode := rfl
@[simp] theorem State.setMxcsr_cpl (s : State) (v : BitVec 32) : (s.setMxcsr v).cpl = s.cpl := rfl
@[simp] theorem State.setMxcsr_em (s : State) (v : BitVec 32) : (s.setMxcsr v).em = s.em := rfl
@[simp] theorem State.setMxcsr_ts (s : State) (v : BitVec 32) : (s.setMxcsr v).ts = s.ts := rfl
@[simp] theorem State.setMxcsr_am (s : State) (v : BitVec 32) : (s.setMxcsr v).am = s.am := rfl
@[simp] theorem State.setMxcsr_osfxsr (s : State) (v : BitVec 32) : (s.setMxcsr v).osfxsr = s.osfxsr := rfl
@[simp] theorem State.setMxcsr_osxmmexcpt (s : State) (v : BitVec 32) : (s.setMxcsr v).osxmmexcpt = s.osxmmexcpt := rfl
@[simp] theorem State.setMxcsr_osxsave (s : State) (v : BitVec 32) : (s.setMxcsr v).osxsave = s.osxsave := rfl
@[simp] theorem State.setMxcsr_avxState (s : State) (v : BitVec 32) : (s.setMxcsr v).avxState = s.avxState := rfl
@[simp] theorem State.setMxcsr_avx512State (s : State) (v : BitVec 32) : (s.setMxcsr v).avx512State = s.avx512State := rfl
@[simp] theorem State.setMxcsr_tf (s : State) (v : BitVec 32) : (s.setMxcsr v).tf = s.tf := rfl
@[simp] theorem State.setMxcsr_vm (s : State) (v : BitVec 32) : (s.setMxcsr v).vm = s.vm := rfl
@[simp] theorem State.setMxcsr_ac (s : State) (v : BitVec 32) : (s.setMxcsr v).ac = s.ac := rfl
@[simp] theorem State.setMxcsr_acOn (s : State) (v : BitVec 32) : (s.setMxcsr v).acOn = s.acOn := rfl
@[simp] theorem State.setMxcsr_breakpointArmed (s : State) (v : BitVec 32) : (s.setMxcsr v).breakpointArmed = s.breakpointArmed := rfl
@[simp] theorem State.setMxcsr_realOrV86 (s : State) (v : BitVec 32) : (s.setMxcsr v).realOrV86 = s.realOrV86 := rfl
@[simp] theorem State.setMxcsr_simdFp (s : State) (v : BitVec 32) : (s.setMxcsr v).simdFp = s.simdFp := rfl
@[simp] theorem State.setMxcsr_x (s : State) (v : BitVec 32) (i : BitVec 4) : (s.setMxcsr v).x i = s.x i := rfl
@[simp] theorem State.setMxcsr_kReg (s : State) (v : BitVec 32) (a : BitVec 3) : (s.setMxcsr v).kReg a = s.kReg a := rfl
@[simp] theorem State.setMxcsr_zmmReg (s : State) (v : BitVec 32) (m : BitVec 5) : (s.setMxcsr v).zmmReg m = s.zmmReg m := rfl

/-! ### `State.raise` -/

@[simp] theorem State.raise_zmm (s : State) (e : Exn) : (s.raise e).zmm = s.zmm := rfl
@[simp] theorem State.raise_k (s : State) (e : Exn) : (s.raise e).k = s.k := rfl
@[simp] theorem State.raise_mxcsr (s : State) (e : Exn) : (s.raise e).mxcsr = s.mxcsr := rfl
@[simp] theorem State.raise_gpr (s : State) (e : Exn) : (s.raise e).gpr = s.gpr := rfl
@[simp] theorem State.raise_rip (s : State) (e : Exn) : (s.raise e).rip = s.rip := rfl
@[simp] theorem State.raise_segs (s : State) (e : Exn) : (s.raise e).segs = s.segs := rfl
@[simp] theorem State.raise_csL (s : State) (e : Exn) : (s.raise e).csL = s.csL := rfl
@[simp] theorem State.raise_rflags (s : State) (e : Exn) : (s.raise e).rflags = s.rflags := rfl
@[simp] theorem State.raise_cr0 (s : State) (e : Exn) : (s.raise e).cr0 = s.cr0 := rfl
@[simp] theorem State.raise_cr2 (s : State) (e : Exn) : (s.raise e).cr2 = e.cr2 s.cr2 := rfl
@[simp] theorem State.raise_cr4 (s : State) (e : Exn) : (s.raise e).cr4 = s.cr4 := rfl
@[simp] theorem State.raise_xcr0 (s : State) (e : Exn) : (s.raise e).xcr0 = s.xcr0 := rfl
@[simp] theorem State.raise_efer (s : State) (e : Exn) : (s.raise e).efer = s.efer := rfl
@[simp] theorem State.raise_dr7 (s : State) (e : Exn) : (s.raise e).dr7 = s.dr7 := rfl
@[simp] theorem State.raise_idtrBase (s : State) (e : Exn) : (s.raise e).idtrBase = s.idtrBase := rfl
@[simp] theorem State.raise_x87 (s : State) (e : Exn) : (s.raise e).x87 = s.x87 := rfl
@[simp] theorem State.raise_mem (s : State) (e : Exn) : (s.raise e).mem = s.mem := rfl
@[simp] theorem State.raise_raised (s : State) (e : Exn) : (s.raise e).raised = some (s.frame e) := rfl
@[simp] theorem State.raise_cfg (s : State) (e : Exn) : (s.raise e).cfg = s.cfg := rfl
@[simp] theorem State.raise_freeCount (s : State) (e : Exn) : (s.raise e).freeCount = s.freeCount := rfl
@[simp] theorem State.raise_mode (s : State) (e : Exn) : (s.raise e).mode = s.mode := rfl
@[simp] theorem State.raise_cpl (s : State) (e : Exn) : (s.raise e).cpl = s.cpl := rfl
@[simp] theorem State.raise_em (s : State) (e : Exn) : (s.raise e).em = s.em := rfl
@[simp] theorem State.raise_ts (s : State) (e : Exn) : (s.raise e).ts = s.ts := rfl
@[simp] theorem State.raise_am (s : State) (e : Exn) : (s.raise e).am = s.am := rfl
@[simp] theorem State.raise_osfxsr (s : State) (e : Exn) : (s.raise e).osfxsr = s.osfxsr := rfl
@[simp] theorem State.raise_osxmmexcpt (s : State) (e : Exn) : (s.raise e).osxmmexcpt = s.osxmmexcpt := rfl
@[simp] theorem State.raise_osxsave (s : State) (e : Exn) : (s.raise e).osxsave = s.osxsave := rfl
@[simp] theorem State.raise_avxState (s : State) (e : Exn) : (s.raise e).avxState = s.avxState := rfl
@[simp] theorem State.raise_avx512State (s : State) (e : Exn) : (s.raise e).avx512State = s.avx512State := rfl
@[simp] theorem State.raise_tf (s : State) (e : Exn) : (s.raise e).tf = s.tf := rfl
@[simp] theorem State.raise_vm (s : State) (e : Exn) : (s.raise e).vm = s.vm := rfl
@[simp] theorem State.raise_ac (s : State) (e : Exn) : (s.raise e).ac = s.ac := rfl
@[simp] theorem State.raise_acOn (s : State) (e : Exn) : (s.raise e).acOn = s.acOn := rfl
@[simp] theorem State.raise_breakpointArmed (s : State) (e : Exn) : (s.raise e).breakpointArmed = s.breakpointArmed := rfl
@[simp] theorem State.raise_realOrV86 (s : State) (e : Exn) : (s.raise e).realOrV86 = s.realOrV86 := rfl
@[simp] theorem State.raise_simdFp (s : State) (e : Exn) : (s.raise e).simdFp = s.simdFp := rfl
@[simp] theorem State.raise_x (s : State) (e : Exn) (i : BitVec 4) : (s.raise e).x i = s.x i := rfl
@[simp] theorem State.raise_kReg (s : State) (e : Exn) (a : BitVec 3) : (s.raise e).kReg a = s.kReg a := rfl
@[simp] theorem State.raise_zmmReg (s : State) (e : Exn) (m : BitVec 5) : (s.raise e).zmmReg m = s.zmmReg m := rfl

/-- Reading a vector register after a write of one. -/
theorem State.zmmReg_setZmm (s : State) (n m : BitVec 5) (v : Zmm) :
    (s.setZmm n v).zmmReg m = if m = n then v else s.zmmReg m := by
  by_cases h : m = n
  · subst h
    simp [State.zmmReg]
  · have h' : n.toNat ≠ m.toNat := fun e => h (BitVec.eq_of_toNat_eq e.symm)
    simp [State.zmmReg, h, h']

@[simp] theorem State.zmmReg_setZmm_same (s : State) (n : BitVec 5) (v : Zmm) :
    (s.setZmm n v).zmmReg n = v := by
  simp [State.zmmReg_setZmm]

theorem State.zmmReg_setZmm_other (s : State) {n m : BitVec 5} (h : m ≠ n) (v : Zmm) :
    (s.setZmm n v).zmmReg m = s.zmmReg m := by
  simp [State.zmmReg_setZmm, h]

/-! ### Completion and the SIMD trap -/

@[simp] theorem State.complete_zmm (s : State) (len : Nat) (dst : BitVec 5) (flags : BitVec 6) (v : Zmm) :
    (s.complete len dst flags v).zmm = s.zmm.set dst.toNat v dst.isLt := rfl
@[simp] theorem State.complete_k (s : State) (len : Nat) (dst : BitVec 5) (flags : BitVec 6) (v : Zmm) :
    (s.complete len dst flags v).k = s.k := rfl
@[simp] theorem State.complete_mxcsr (s : State) (len : Nat) (dst : BitVec 5) (flags : BitVec 6) (v : Zmm) :
    (s.complete len dst flags v).mxcsr = mxOr s.mxcsr flags := rfl
@[simp] theorem State.complete_gpr (s : State) (len : Nat) (dst : BitVec 5) (flags : BitVec 6) (v : Zmm) :
    (s.complete len dst flags v).gpr = s.gpr := rfl
@[simp] theorem State.complete_rip (s : State) (len : Nat) (dst : BitVec 5) (flags : BitVec 6) (v : Zmm) :
    (s.complete len dst flags v).rip = s.nextRip len := rfl
@[simp] theorem State.complete_segs (s : State) (len : Nat) (dst : BitVec 5) (flags : BitVec 6) (v : Zmm) :
    (s.complete len dst flags v).segs = s.segs := rfl
@[simp] theorem State.complete_csL (s : State) (len : Nat) (dst : BitVec 5) (flags : BitVec 6) (v : Zmm) :
    (s.complete len dst flags v).csL = s.csL := rfl
@[simp] theorem State.complete_rflags (s : State) (len : Nat) (dst : BitVec 5) (flags : BitVec 6) (v : Zmm) :
    (s.complete len dst flags v).rflags = s.rflags := rfl
@[simp] theorem State.complete_cr0 (s : State) (len : Nat) (dst : BitVec 5) (flags : BitVec 6) (v : Zmm) :
    (s.complete len dst flags v).cr0 = s.cr0 := rfl
@[simp] theorem State.complete_cr2 (s : State) (len : Nat) (dst : BitVec 5) (flags : BitVec 6) (v : Zmm) :
    (s.complete len dst flags v).cr2 = s.cr2 := rfl
@[simp] theorem State.complete_cr4 (s : State) (len : Nat) (dst : BitVec 5) (flags : BitVec 6) (v : Zmm) :
    (s.complete len dst flags v).cr4 = s.cr4 := rfl
@[simp] theorem State.complete_xcr0 (s : State) (len : Nat) (dst : BitVec 5) (flags : BitVec 6) (v : Zmm) :
    (s.complete len dst flags v).xcr0 = s.xcr0 := rfl
@[simp] theorem State.complete_efer (s : State) (len : Nat) (dst : BitVec 5) (flags : BitVec 6) (v : Zmm) :
    (s.complete len dst flags v).efer = s.efer := rfl
@[simp] theorem State.complete_dr7 (s : State) (len : Nat) (dst : BitVec 5) (flags : BitVec 6) (v : Zmm) :
    (s.complete len dst flags v).dr7 = s.dr7 := rfl
@[simp] theorem State.complete_idtrBase (s : State) (len : Nat) (dst : BitVec 5) (flags : BitVec 6) (v : Zmm) :
    (s.complete len dst flags v).idtrBase = s.idtrBase := rfl
@[simp] theorem State.complete_x87 (s : State) (len : Nat) (dst : BitVec 5) (flags : BitVec 6) (v : Zmm) :
    (s.complete len dst flags v).x87 = s.x87 := rfl
@[simp] theorem State.complete_mem (s : State) (len : Nat) (dst : BitVec 5) (flags : BitVec 6) (v : Zmm) :
    (s.complete len dst flags v).mem = s.mem := rfl
@[simp] theorem State.complete_raised (s : State) (len : Nat) (dst : BitVec 5) (flags : BitVec 6) (v : Zmm) :
    (s.complete len dst flags v).raised = s.raised := rfl
@[simp] theorem State.complete_cfg (s : State) (len : Nat) (dst : BitVec 5) (flags : BitVec 6) (v : Zmm) :
    (s.complete len dst flags v).cfg = s.cfg := rfl
@[simp] theorem State.complete_freeCount (s : State) (len : Nat) (dst : BitVec 5) (flags : BitVec 6) (v : Zmm) :
    (s.complete len dst flags v).freeCount = s.freeCount := rfl
@[simp] theorem State.complete_mode (s : State) (len : Nat) (dst : BitVec 5) (flags : BitVec 6) (v : Zmm) :
    (s.complete len dst flags v).mode = s.mode := rfl
theorem State.complete_zmmReg (s : State) (len : Nat) (dst : BitVec 5) (flags : BitVec 6) (v : Zmm) (m : BitVec 5) :
    (s.complete len dst flags v).zmmReg m = if m = dst then v else s.zmmReg m :=
  State.zmmReg_setZmm (s.setMxcsr (mxOr s.mxcsr flags)) dst m v

@[simp] theorem State.trapSimd_zmm (s : State) (must may : BitVec 6) :
    (s.trapSimd must may).zmm = s.zmm := rfl
@[simp] theorem State.trapSimd_k (s : State) (must may : BitVec 6) :
    (s.trapSimd must may).k = s.k := rfl
@[simp] theorem State.trapSimd_mxcsr (s : State) (must may : BitVec 6) :
    (s.trapSimd must may).mxcsr = mxOr s.mxcsr (trapFlags (Config.freeFlags s.freeCount) must may) := rfl
@[simp] theorem State.trapSimd_gpr (s : State) (must may : BitVec 6) :
    (s.trapSimd must may).gpr = s.gpr := rfl
@[simp] theorem State.trapSimd_rip (s : State) (must may : BitVec 6) :
    (s.trapSimd must may).rip = s.rip := rfl
@[simp] theorem State.trapSimd_segs (s : State) (must may : BitVec 6) :
    (s.trapSimd must may).segs = s.segs := rfl
@[simp] theorem State.trapSimd_csL (s : State) (must may : BitVec 6) :
    (s.trapSimd must may).csL = s.csL := rfl
@[simp] theorem State.trapSimd_rflags (s : State) (must may : BitVec 6) :
    (s.trapSimd must may).rflags = s.rflags := rfl
@[simp] theorem State.trapSimd_cr0 (s : State) (must may : BitVec 6) :
    (s.trapSimd must may).cr0 = s.cr0 := rfl
@[simp] theorem State.trapSimd_cr2 (s : State) (must may : BitVec 6) :
    (s.trapSimd must may).cr2 = s.simdFp.cr2 s.cr2 := rfl
@[simp] theorem State.trapSimd_cr4 (s : State) (must may : BitVec 6) :
    (s.trapSimd must may).cr4 = s.cr4 := rfl
@[simp] theorem State.trapSimd_xcr0 (s : State) (must may : BitVec 6) :
    (s.trapSimd must may).xcr0 = s.xcr0 := rfl
@[simp] theorem State.trapSimd_efer (s : State) (must may : BitVec 6) :
    (s.trapSimd must may).efer = s.efer := rfl
@[simp] theorem State.trapSimd_dr7 (s : State) (must may : BitVec 6) :
    (s.trapSimd must may).dr7 = s.dr7 := rfl
@[simp] theorem State.trapSimd_idtrBase (s : State) (must may : BitVec 6) :
    (s.trapSimd must may).idtrBase = s.idtrBase := rfl
@[simp] theorem State.trapSimd_x87 (s : State) (must may : BitVec 6) :
    (s.trapSimd must may).x87 = s.x87 := rfl
@[simp] theorem State.trapSimd_mem (s : State) (must may : BitVec 6) :
    (s.trapSimd must may).mem = s.mem := rfl
@[simp] theorem State.trapSimd_raised (s : State) (must may : BitVec 6) :
    (s.trapSimd must may).raised = some (s.frame s.simdFp) := rfl
@[simp] theorem State.trapSimd_cfg (s : State) (must may : BitVec 6) :
    (s.trapSimd must may).cfg = s.cfg := rfl
@[simp] theorem State.trapSimd_freeCount (s : State) (must may : BitVec 6) :
    (s.trapSimd must may).freeCount = if must = may then s.freeCount else s.freeCount + 1 := rfl
@[simp] theorem State.trapSimd_mode (s : State) (must may : BitVec 6) :
    (s.trapSimd must may).mode = s.mode := rfl

/-- A SIMD trap is `#XM` or `#UD`, so it never loads CR2. -/
theorem State.simdFp_cr2 (s : State) (old : Word64) : s.simdFp.cr2 old = old := by
  unfold State.simdFp
  split <;> rfl

end Sys2Proof.Machine
end

