-- ==== Sys2Proof/Laws/Ops.lean ====
section
/-! SUPPORT. One lemma for each shared operation that says once what it can do: the execution skeleton,
the source operand, the resolution of the lanes, the destination write. -/

namespace Sys2Proof.Machine

/-! ### Every meaning is the shared skeleton -/

/-- The `#UD` condition a meaning checks. -/
def State.udOf (s : State) : Instr → Bool
  | .cvtpd2ps pfx _ _ => s.sseUd pfx
  | .vcvtpd2psVex128C5 pfx v _ _ => s.vexUd pfx v.vvvv .v128
  | .vcvtpd2psVex128C4 pfx v _ _ => s.vexUd pfx v.vvvv .v128
  | .vcvtpd2psVex256C5 pfx v _ _ => s.vexUd pfx v.vvvv .v256
  | .vcvtpd2psVex256C4 pfx v _ _ => s.vexUd pfx v.vvvv .v256
  | .vcvtpd2psEvex128 pfx e _ _ => s.evexUd pfx e false .v128
  | .vcvtpd2psEvex256 pfx e _ _ => s.evexUd pfx e false .v256
  | .vcvtpd2psEvex512 pfx e lenRes _ _ => s.evexUd pfx e lenRes .v512
  | .vcvtpd2psEvex512Er pfx e _ _ _ => s.evexUd pfx e false .v512

/-- The source a meaning reads. -/
def State.sourceOf (s : State) : Instr → Access (List (Option Word64))
  | .cvtpd2ps pfx _ rm => s.sseSource pfx rm
  | .vcvtpd2psVex128C5 pfx v _ rm => s.vexSource pfx (vex2Ext v) .v128 3 rm
  | .vcvtpd2psVex128C4 pfx v _ rm => s.vexSource pfx (vex3Ext v) .v128 4 rm
  | .vcvtpd2psVex256C5 pfx v _ rm => s.vexSource pfx (vex2Ext v) .v256 3 rm
  | .vcvtpd2psVex256C4 pfx v _ rm => s.vexSource pfx (vex3Ext v) .v256 4 rm
  | .vcvtpd2psEvex128 pfx e _ rm => s.evexSource pfx e .v128 rm
  | .vcvtpd2psEvex256 pfx e _ rm => s.evexSource pfx e .v256 rm
  | .vcvtpd2psEvex512 pfx e _ _ rm => s.evexSource pfx e .v512 rm
  | .vcvtpd2psEvex512Er _ e _ _ src => s.registerLanes (s.evexSrc e src) (s.activeLanes e.aaa .v512)

/-- How a meaning writes its destination. -/
def writeOf : Instr → BitVec 512 → List (Option Single) → BitVec 512
  | .cvtpd2ps _ _ _ => sseWrite
  | .vcvtpd2psVex128C5 _ _ _ _ => vexWrite
  | .vcvtpd2psVex128C4 _ _ _ _ => vexWrite
  | .vcvtpd2psVex256C5 _ _ _ _ => vexWrite
  | .vcvtpd2psVex256C4 _ _ _ _ => vexWrite
  | .vcvtpd2psEvex128 _ e _ _ => evexWrite e.z
  | .vcvtpd2psEvex256 _ e _ _ => evexWrite e.z
  | .vcvtpd2psEvex512 _ e _ _ _ => evexWrite e.z
  | .vcvtpd2psEvex512Er _ e _ _ _ => evexWrite e.z

/-- Every meaning is one `execute`. -/
theorem exec_eq_execute (i : Instr) (s : State) :
    exec i s = s.execute i.length (s.udOf i) (s.sourceOf i) (erOf i) (dstOf s.mode i) (writeOf i) := by
  cases i <;> rfl

/-- What an execution can answer. -/
theorem State.execute_cases (s : State) (len : Nat) (ud : Bool) (src : Access (List (Option Word64)))
    (er : Option Rounding) (dst : BitVec 5) (write : BitVec 512 → List (Option Single) → BitVec 512) :
    (15 < len ∧ s.execute len ud src er dst write = .next (s.raise .gp)) ∨
    (len ≤ 15 ∧ ud = true ∧ s.execute len ud src er dst write = .next (s.raise .ud)) ∨
    (len ≤ 15 ∧ ud = false ∧ s.ts = true ∧ s.execute len ud src er dst write = .next (s.raise .nm)) ∨
    (len ≤ 15 ∧ ud = false ∧ s.ts = false ∧
      ((∃ e, src = .raise e ∧ s.execute len ud src er dst write = .next (s.raise e)) ∨
        (∃ why, src = .refuse why ∧ s.execute len ud src er dst write = .refused why) ∨
        (∃ lanes, src = .ok lanes ∧
          s.execute len ud src er dst write = .next (s.convertAndWrite len er dst write lanes)))) := by
  unfold State.execute
  by_cases h : 15 < len
  · exact .inl ⟨h, by simp [h]⟩
  · refine .inr ?_
    cases ud with
    | true => exact .inl ⟨by omega, rfl, by simp [h]⟩
    | false =>
      refine .inr ?_
      cases hts : s.ts with
      | true => exact .inl ⟨by omega, rfl, rfl, by simp [h]⟩
      | false =>
        refine .inr ⟨by omega, rfl, rfl, ?_⟩
        cases src <;> simp [h]

/-- An execution that passes steps 1 to 3 of R205 does what its source says. -/
theorem State.execute_ready (s : State) {len : Nat} {ud : Bool} (hl : len ≤ 15) (hu : ud = false) (ht : s.ts = false)
    (src : Access (List (Option Word64))) (er : Option Rounding) (dst : BitVec 5)
    (write : BitVec 512 → List (Option Single) → BitVec 512) :
    s.execute len ud src er dst write =
      match src with
      | .raise e => .next (s.raise e)
      | .refuse why => .refused why
      | .ok lanes => .next (s.convertAndWrite len er dst write lanes) := by
  have : ¬ 15 < len := by omega
  cases src <;> simp only [State.execute, this, hu, ht, if_false, Bool.false_eq_true]

/-- The encoding part of a VEX form's `#UD`. -/
theorem badVexPrefix_eq (p : Prefix) : badVexPrefix p = !p.beforeVex := by
  cases p <;> rfl

theorem any_badVexPrefix (pfx : List Prefix) : pfx.any badVexPrefix = !pfx.all Prefix.beforeVex := by
  induction pfx with
  | nil => rfl
  | cons p ps ih => simp [List.any_cons, List.all_cons, ih, badVexPrefix_eq, Bool.not_and]

theorem vexVvvvBad_eq (v : BitVec 4) : vexVvvvBad v = !vexVvvvLegal v := by
  simp [vexVvvvBad, vexVvvvLegal]

theorem evexReserved_eq (e : Evex) : evexReserved e = !e.legal := by
  unfold evexReserved Evex.legal
  simp [Bool.not_and, Bool.not_not]

theorem State.realOrV86_eq (s : State) :
    s.realOrV86 = !(decide (s.mode ≠ .real) && decide (s.mode ≠ .v86)) := by
  unfold State.realOrV86
  by_cases h : s.mode = .real <;> by_cases h' : s.mode = .v86 <;> simp [h, h']

theorem State.tooWide_eq (s : State) (vl : VecLen) : s.tooWide vl = !decide (vl.bits ≤ s.cfg.maxVl.bits) := by
  unfold State.tooWide
  by_cases h : vl.bits ≤ s.cfg.maxVl.bits <;> simp [h]; omega

theorem State.vexUd_eq (s : State) (pfx : List Prefix) (v : BitVec 4) (vl : VecLen) :
    s.vexUd pfx v vl =
      !((pfx.all Prefix.beforeVex && vexVvvvLegal v) && (s.cfg.hasAvx && s.avxOn vl)) := by
  simp only [State.vexUd, any_badVexPrefix, vexVvvvBad_eq, State.realOrV86_eq, State.tooWide_eq,
    State.avxOn, State.avxState, State.osxsave, Bool.not_and]
  grind

theorem State.evexUd_eq (s : State) (pfx : List Prefix) (e : Evex) (lenRes : Bool) (vl : VecLen) :
    s.evexUd pfx e lenRes vl =
      !((pfx.all Prefix.beforeVex && e.legal && !lenRes) && s.avx512On vl) := by
  have hv : s.hasEvex vl = (s.cfg.hasAvx512f && (decide (vl = .v512) || s.cfg.hasAvx512vl)) := by
    cases vl <;> simp [State.hasEvex]
  simp only [State.evexUd, any_badVexPrefix, evexReserved_eq, State.realOrV86_eq, State.tooWide_eq,
    State.avx512On, State.avxOn, State.avxState, State.avx512State, State.osxsave, hv, Bool.not_and]
  grind

/-- A meaning's `#UD` condition is that its form is not enabled. -/
theorem State.udOf_eq (s : State) (i : Instr) : s.udOf i = !s.enabled i := by
  cases i <;> simp only [State.udOf, State.enabled, Instr.legal, State.vexUd_eq, State.evexUd_eq, Bool.not_false,
    Bool.and_true]
  simp only [State.sseUd, State.sseOn, State.em, State.osfxsr]
  grind

end Sys2Proof.Machine
end

