-- ==== Sys2Proof/Laws/Source.lean ====
section
/-! SUPPORT. What reaching a source operand answers: the lanes of a register, of a full-width memory
operand and of a broadcast element, and the first exception or refusal of a memory operand. -/

namespace Sys2Proof.Machine

/-! ### Lanes -/

theorem lanesFrom_range (v : BitVec 512) (f : Nat → Bool) (k n : Nat) :
    lanesFrom v k ((List.range' k n).map f) =
      (List.range' k n).map (fun j => if f j then some (elem64 v j) else none) := by
  induction n generalizing k with
  | zero => rfl
  | succ n ih => simp [List.range'_succ, lanesFrom, ih]

theorem lanesFrom_zero (v : BitVec 512) (f : Nat → Bool) (n : Nat) :
    lanesFrom v 0 ((List.range n).map f) =
      (List.range n).map (fun j => if f j then some (elem64 v j) else none) := by
  simpa [List.range_eq_range'] using lanesFrom_range v f 0 n

theorem allActive_eq (vl : VecLen) : allActive vl = (List.range vl.kl).map (fun _ => true) := by
  cases vl <;> rfl

theorem lanesFrom_congr (f : Nat → Bool) {v w : BitVec 512} (n : Nat)
    (h : ∀ j < n, f j = true → elem64 v j = elem64 w j) :
    lanesFrom v 0 ((List.range n).map f) = lanesFrom w 0 ((List.range n).map f) := by
  rw [lanesFrom_zero, lanesFrom_zero]
  refine List.map_congr_left (fun j hj => ?_)
  cases hf : f j with
  | false => simp
  | true => simp [h j (List.mem_range.mp hj) hf]

/-! ### Memory reads -/

theorem State.memRead_getLsbD (s : State) (lin : Word64) (n i : Nat) (hn : n ≤ 64) :
    (s.memRead lin n).getLsbD i = (decide (i < 8 * n) && (s.operandByte lin (i / 8)).getLsbD (i % 8)) := by
  induction n with
  | zero => simp [State.memRead]
  | succ n ih =>
    rw [State.memRead, BitVec.getLsbD_or, ih (by omega), BitVec.getLsbD_shiftLeft, BitVec.getLsbD_setWidth]
    by_cases h : i < 8 * n
    · have h1 : i < 8 * (n + 1) := by omega
      simp [h, h1]
    · by_cases h1 : i < 8 * (n + 1)
      · have e1 : i / 8 = n := by omega
        have e2 : i % 8 = i - 8 * n := by omega
        have e3 : i < 512 := by omega
        have e4 : i - 8 * n < 512 := by omega
        simp [h, h1, e1, e2, e3, e4, State.operandByte]
      · have e5 : 8 ≤ i - 8 * n := by omega
        simp [h, h1, e5]

/-- Element `j` of a read is the eight bytes at `lin + 8j`. -/
theorem State.elem64_memRead (s : State) (lin : Word64) {n j : Nat} (hn : n ≤ 64) (hj : 8 * j + 8 ≤ n) :
    elem64 (s.memRead lin n) j = s.elementAt lin j := by
  apply BitVec.eq_of_getLsbD_eq
  intro i hi
  rw [elem64, BitVec.getLsbD_extractLsb', State.memRead_getLsbD s lin n _ hn]
  have hlt : 64 * j + i < 8 * n := by omega
  simp only [hi, hlt, decide_true, Bool.true_and, State.elementAt, BitVec.getLsbD_append]
  have hd : (64 * j + i) / 8 = 8 * j + i / 8 := by omega
  have hm : (64 * j + i) % 8 = i % 8 := by omega
  rw [hd, hm]
  have hcases : i / 8 = 0 ∨ i / 8 = 1 ∨ i / 8 = 2 ∨ i / 8 = 3 ∨ i / 8 = 4 ∨ i / 8 = 5 ∨ i / 8 = 6 ∨ i / 8 = 7 := by
    omega
  rcases hcases with h | h | h | h | h | h | h | h <;> rw [h] <;> grind

/-! ### The bytes of an operand -/

/-- The bytes checked, element by element, in rising order. -/
theorem State.neededBytes_range (s : State) (lin : Word64) (f : Nat → Bool) (k n : Nat) :
    s.neededBytes lin k ((List.range' k n).map f) =
      (List.range' k n).flatMap (fun j =>
        if f j then (List.range 8).map (fun t => s.byteAddr lin (8 * j + t)) else []) := by
  induction n generalizing k with
  | zero => rfl
  | succ n ih =>
    cases hf : f k <;> simp [List.range'_succ, State.neededBytes, ih, hf]

theorem State.neededBytes_zero (s : State) (lin : Word64) (f : Nat → Bool) (n : Nat) :
    s.neededBytes lin 0 ((List.range n).map f) =
      (List.range n).flatMap (fun j =>
        if f j then (List.range 8).map (fun t => s.byteAddr lin (8 * j + t)) else []) := by
  simpa [List.range_eq_range'] using s.neededBytes_range lin f 0 n

theorem State.mem_neededBytes (s : State) (lin : Word64) (f : Nat → Bool) (n : Nat) (a : Word64) :
    a ∈ s.neededBytes lin 0 ((List.range n).map f) ↔
      ∃ j < n, f j = true ∧ ∃ t < 8, a = s.byteAddr lin (8 * j + t) := by
  rw [s.neededBytes_zero]
  simp only [List.mem_flatMap, List.mem_range]
  constructor
  · rintro ⟨j, hj, ha⟩
    cases hf : f j with
    | false => simp [hf] at ha
    | true =>
      simp only [hf, if_true, List.mem_map, List.mem_range] at ha
      obtain ⟨t, ht, rfl⟩ := ha
      exact ⟨j, hj, hf, t, ht, rfl⟩
  · rintro ⟨j, hj, hf, t, ht, rfl⟩
    exact ⟨j, hj, by simpa [hf] using ⟨t, ht, rfl⟩⟩

/-- Some needed byte fails the segment check exactly when some needed element does. -/
theorem State.any_segmentFault (s : State) (lin : Word64) (f : Nat → Bool) (n : Nat) :
    (s.neededBytes lin 0 ((List.range n).map f)).any s.segmentFault = true ↔
      ∃ j < n, f j = true ∧ s.segmentOk lin j = false := by
  simp only [List.any_eq_true, s.mem_neededBytes, State.segmentOk, List.all_eq_false, List.mem_range]
  constructor
  · rintro ⟨a, ⟨j, hj, hf, t, ht, rfl⟩, ha⟩
    exact ⟨j, hj, hf, t, ht, by simp [ha]⟩
  · rintro ⟨j, hj, hf, t, ht, ha⟩
    exact ⟨_, ⟨j, hj, hf, t, ht, rfl⟩, by simpa using ha⟩

theorem State.findSome_pageFault_none (s : State) (lin : Word64) (f : Nat → Bool) (n : Nat) :
    (s.neededBytes lin 0 ((List.range n).map f)).findSome? s.pageFault = none ↔
      ∀ j < n, f j = true → s.pageOk lin j = true := by
  simp only [List.findSome?_eq_none_iff, s.mem_neededBytes, State.pageOk, List.all_eq_true, List.mem_range,
    Option.isNone_iff_eq_none]
  exact ⟨fun h j hj hf t ht => h _ ⟨j, hj, hf, t, ht, rfl⟩, fun h a ⟨j, hj, hf, t, ht, e⟩ => e ▸ h j hj hf t ht⟩

theorem State.any_deviceByte (s : State) (lin : Word64) (f : Nat → Bool) (n : Nat) :
    (s.neededBytes lin 0 ((List.range n).map f)).any s.deviceByte = true ↔
      ∃ j < n, f j = true ∧ s.ordinary lin j = false := by
  simp only [List.any_eq_true, s.mem_neededBytes, State.ordinary, List.all_eq_false, List.mem_range]
  constructor
  · rintro ⟨a, ⟨j, hj, hf, t, ht, rfl⟩, ha⟩
    exact ⟨j, hj, hf, t, ht, by simp [ha]⟩
  · rintro ⟨j, hj, hf, t, ht, ha⟩
    exact ⟨_, ⟨j, hj, hf, t, ht, rfl⟩, by simpa using ha⟩

/-- Bit 1 of the code is 0: a read (R197). -/
theorem pageFaultCode_read (cpl : BitVec 2) (p : Bool) (o : BitVec 32) : (pageFaultCode cpl p o)[1] = false := by
  show (o.extractLsb' 3 29 ++ BitVec.ofBool (decide (cpl = 3)) ++ 0b0#1 ++ BitVec.ofBool p).getLsbD 1 = false
  rw [BitVec.getLsbD_append, BitVec.getLsbD_append]
  simp

/-- Bit 2 of the code says user mode (R197). -/
theorem pageFaultCode_user (cpl : BitVec 2) (p : Bool) (o : BitVec 32) :
    (pageFaultCode cpl p o)[2] = decide (cpl = 3) := by
  show (o.extractLsb' 3 29 ++ BitVec.ofBool (decide (cpl = 3)) ++ 0b0#1 ++ BitVec.ofBool p).getLsbD 2 = _
  rw [BitVec.getLsbD_append, BitVec.getLsbD_append, BitVec.getLsbD_append]
  simp

theorem regionPageFault_some {r : Region} {cpl : BitVec 2} {fc : BitVec 32}
    (h : regionPageFault r cpl = some fc) : ∃ p o, fc = pageFaultCode cpl p o := by
  cases hk : r.kind with
  | segment => simp [regionPageFault, hk] at h
  | device => simp [regionPageFault, hk] at h
  | page present user supervisor other =>
    refine ⟨present, other, ?_⟩
    simp only [regionPageFault, hk, Option.ite_none_right_eq_some, Option.some.injEq] at h
    exact h.2.symm

/-- A page fault carries the byte's address and a code for a read at this level (R197). -/
theorem State.pageFault_some (s : State) (a : Word64) {e : Exn} (h : s.pageFault a = some e) :
    ∃ fc, e = .pf a fc ∧ fc[1] = false ∧ fc[2] = decide (s.cpl = 3) := by
  simp only [State.pageFault, Option.map_eq_some_iff] at h
  obtain ⟨fc, hfc, rfl⟩ := h
  obtain ⟨r, _, hr⟩ := List.exists_of_findSome?_eq_some hfc
  cases hc : regionCovers r a.toNat with
  | false => simp [hc] at hr
  | true =>
    simp only [hc, if_true] at hr
    obtain ⟨p, o, rfl⟩ := regionPageFault_some hr
    exact ⟨_, rfl, pageFaultCode_read _ _ _, pageFaultCode_user _ _ _⟩

/-! ### The source of every form -/

/-- The lanes an execution converts: those of the active lanes, `none` for the others. -/
def State.lanesOf (s : State) (i : Instr) : List (Option Word64) :=
  (List.range (vecLenOf i).kl).map (fun j => if s.activeLane i j then some (s.operandLane i j) else none)

/-- The active lanes as the meanings compute them. -/
def State.activeOf (s : State) (i : Instr) : List Bool := (List.range (vecLenOf i).kl).map (s.activeLane i)

theorem State.activeOf_plain (s : State) (i : Instr) (h : evexOf? i = none) :
    s.activeOf i = allActive (vecLenOf i) := by
  rw [allActive_eq, State.activeOf]
  exact List.map_congr_left (fun j _ => by simp [State.activeLane, h])

theorem fullScale_eq (vl : VecLen) : fullScale vl = vl.bits / 8 := by
  cases vl <;> rfl

theorem State.evexSource_mem (s : State) (pfx : List Prefix) (e : Evex) (vl : VecLen) (a : Addr) :
    s.evexSource pfx e vl (.mem a) =
      s.memoryLanes (operandSeg s.mode pfx (evexExt e) a)
        (s.linear pfx (evexExt e) (vl.bits / 8) (instrLength pfx 5 (addrLength a)) a) false
        (s.activeLanes e.aaa vl) := by
  rw [← fullScale_eq]
  rfl

/-- The three shapes of a source. -/
theorem State.sourceOf_cases (s : State) (i : Instr) :
    (∃ n, srcOf s.mode i = some n ∧ s.memOperand i = none ∧
      s.sourceOf i = .ok (lanesFrom (s.zmmReg n) 0 (s.activeOf i))) ∨
    (∃ p, s.memOperand i = some p ∧ p.bcst = false ∧ p.elems = (vecLenOf i).kl ∧
      s.sourceOf i = s.memoryLanes p.seg p.lin p.align16 (s.activeOf i)) ∨
    (∃ p, s.memOperand i = some p ∧ p.bcst = true ∧ p.elems = 1 ∧ p.align16 = false ∧
      s.sourceOf i = s.broadcastLanes p.seg p.lin (s.activeOf i)) := by
  cases i with
  | cvtpd2ps pfx reg rm =>
    rw [s.activeOf_plain _ rfl]
    cases rm with
    | reg n => exact .inl ⟨_, rfl, rfl, rfl⟩
    | mem a => exact .inr (.inl ⟨_, rfl, rfl, rfl, rfl⟩)
  | vcvtpd2psVex128C5 pfx v reg rm =>
    rw [s.activeOf_plain _ rfl]
    cases rm with
    | reg n => exact .inl ⟨_, rfl, rfl, rfl⟩
    | mem a => exact .inr (.inl ⟨_, rfl, rfl, rfl, rfl⟩)
  | vcvtpd2psVex128C4 pfx v reg rm =>
    rw [s.activeOf_plain _ rfl]
    cases rm with
    | reg n => exact .inl ⟨_, rfl, rfl, rfl⟩
    | mem a => exact .inr (.inl ⟨_, rfl, rfl, rfl, rfl⟩)
  | vcvtpd2psVex256C5 pfx v reg rm =>
    rw [s.activeOf_plain _ rfl]
    cases rm with
    | reg n => exact .inl ⟨_, rfl, rfl, rfl⟩
    | mem a => exact .inr (.inl ⟨_, rfl, rfl, rfl, rfl⟩)
  | vcvtpd2psVex256C4 pfx v reg rm =>
    rw [s.activeOf_plain _ rfl]
    cases rm with
    | reg n => exact .inl ⟨_, rfl, rfl, rfl⟩
    | mem a => exact .inr (.inl ⟨_, rfl, rfl, rfl, rfl⟩)
  | vcvtpd2psEvex128 pfx e reg rm =>
    cases rm with
    | reg n => exact .inl ⟨_, rfl, rfl, rfl⟩
    | mem a => exact .inr (.inl ⟨_, rfl, rfl, rfl, s.evexSource_mem pfx e .v128 a⟩)
    | bcst a => exact .inr (.inr ⟨_, rfl, rfl, rfl, rfl, rfl⟩)
  | vcvtpd2psEvex256 pfx e reg rm =>
    cases rm with
    | reg n => exact .inl ⟨_, rfl, rfl, rfl⟩
    | mem a => exact .inr (.inl ⟨_, rfl, rfl, rfl, s.evexSource_mem pfx e .v256 a⟩)
    | bcst a => exact .inr (.inr ⟨_, rfl, rfl, rfl, rfl, rfl⟩)
  | vcvtpd2psEvex512 pfx e lenRes reg rm =>
    cases rm with
    | reg n => exact .inl ⟨_, rfl, rfl, rfl⟩
    | mem a => exact .inr (.inl ⟨_, rfl, rfl, rfl, s.evexSource_mem pfx e .v512 a⟩)
    | bcst a => exact .inr (.inr ⟨_, rfl, rfl, rfl, rfl, rfl⟩)
  | vcvtpd2psEvex512Er pfx e rc reg src => exact .inl ⟨_, rfl, rfl, rfl⟩

/-- The elements a memory operand must make accessible, as the meanings list them. -/
def State.neededOf (s : State) (i : Instr) (p : MemOperand) : List Bool :=
  (List.range p.elems).map (s.needsElement i p)

theorem State.needed_full (s : State) (i : Instr) (p : MemOperand) (hb : p.bcst = false)
    (he : p.elems = (vecLenOf i).kl) : s.needed (s.activeOf i) = s.neededOf i p := by
  unfold State.needed State.neededOf State.activeOf
  rw [he]
  cases hs : s.cfg.evexFaultSuppression with
  | true =>
    simp only [if_true]
    refine List.map_congr_left (fun j hj => ?_)
    simp [State.needsElement, hs, hb, he, List.mem_range.mp hj]
  | false =>
    simp only [Bool.false_eq_true, if_false, List.map_map]
    refine List.map_congr_left (fun j hj => ?_)
    simp [State.needsElement, hs, he, List.mem_range.mp hj]

theorem State.anyActive_eq (s : State) (i : Instr) : (s.activeOf i).any id = s.anyActive i := by
  simp [State.activeOf, State.anyActive, List.any_map]

theorem State.needed_bcst (s : State) (i : Instr) (p : MemOperand) (hb : p.bcst = true) (he : p.elems = 1) :
    s.needed [(s.activeOf i).any id] = s.neededOf i p := by
  unfold State.needed State.neededOf
  rw [he, s.anyActive_eq]
  cases hs : s.cfg.evexFaultSuppression <;> simp [State.needsElement, hs, hb, he]

theorem State.acOn_eq (s : State) : s.acOn = (s.cr0[18] && s.rflags[18] && decide (s.cpl = 3)) := rfl

/-- The first exception of R205 steps 4 to 7 that the operand of an instruction raises. -/
def State.faultOf (s : State) (i : Instr) (p : MemOperand) : Option Exn :=
  s.memoryFault p.seg p.lin (s.neededOf i p) p.align16 (p.bcst && s.anyActive i)

/-- The elements an access extends over. -/
def State.touchedOf (s : State) (i : Instr) (p : MemOperand) : List Bool :=
  (List.range p.elems).map (fun _ => !p.bcst || s.anyActive i)

/-- A memory source, in the terms of its operand. -/
theorem State.sourceOf_mem (s : State) (i : Instr) (p : MemOperand) (h : s.memOperand i = some p) :
    s.sourceOf i =
      match s.faultOf i p with
      | some e => .raise e
      | none =>
        match s.memoryRefusal p.lin (s.touchedOf i p) with
        | some why => .refuse why
        | none => .ok (s.lanesOf i) := by
  rcases s.sourceOf_cases i with ⟨n, _, hm, _⟩ | ⟨q, hq, hb, he, hsrc⟩ | ⟨q, hq, hb, he, ha, hsrc⟩
  · rw [hm] at h; cases h
  · obtain rfl : q = p := Option.some.inj (hq.symm.trans h)
    have ht : (s.activeOf i).map (fun _ => true) = s.touchedOf i q := by
      simp [State.activeOf, State.touchedOf, he, hb, Function.comp_def]
    have hl : (s.activeOf i).length = (vecLenOf i).kl := by simp [State.activeOf]
    have hlan : lanesFrom (s.memRead q.lin (8 * (vecLenOf i).kl)) 0 (s.activeOf i) = s.lanesOf i := by
      rw [State.activeOf, lanesFrom_zero, State.lanesOf]
      refine List.map_congr_left (fun j hj => ?_)
      have hj' := List.mem_range.mp hj
      have hk : (vecLenOf i).kl ≤ 8 := by cases vecLenOf i <;> decide
      rw [s.elem64_memRead q.lin (by omega) (by omega)]
      simp [State.operandLane, h, hb]
    rw [hsrc, State.memoryLanes, s.needed_full i q hb he, ht, hl, hlan, State.faultOf, hb]
    rfl
  · obtain rfl : q = p := Option.some.inj (hq.symm.trans h)
    have ht : [(s.activeOf i).any id] = s.touchedOf i q := by
      simp [State.touchedOf, he, hb, s.anyActive_eq]
    have hlan : (s.activeOf i).map (fun a => if a then some (elem64 (s.memRead q.lin 8) 0) else none) =
        s.lanesOf i := by
      rw [State.activeOf, State.lanesOf, List.map_map]
      refine List.map_congr_left (fun j _ => ?_)
      rw [Function.comp_apply, s.elem64_memRead q.lin (by omega) (by omega)]
      simp [State.operandLane, h, hb]
    rw [hsrc, State.broadcastLanes, s.needed_bcst i q hb he, ht, hlan, State.faultOf, hb, ha, s.anyActive_eq]
    rfl

/-- A register source. -/
theorem State.sourceOf_reg (s : State) (i : Instr) (h : s.memOperand i = none) :
    s.sourceOf i = .ok (s.lanesOf i) := by
  rcases s.sourceOf_cases i with ⟨n, hn, _, hsrc⟩ | ⟨q, hq, _⟩ | ⟨q, hq, _⟩
  · rw [hsrc, State.activeOf, lanesFrom_zero, State.lanesOf]
    simp only [State.operandLane, h, hn]
  · rw [hq] at h; cases h
  · rw [hq] at h; cases h

/-- The operand raises nothing exactly when R205 steps 4 to 7 pass. -/
theorem State.faultOf_none (s : State) (i : Instr) (p : MemOperand) :
    s.faultOf i p = none ↔ s.operandAccessible i p := by
  have hseg := s.any_segmentFault p.lin (s.needsElement i p) p.elems
  have hpg := s.findSome_pageFault_none p.lin (s.needsElement i p) p.elems
  have hlt : ∀ j, s.needsElement i p j = true → j < p.elems := fun j hj => by
    simp only [State.needsElement, Bool.and_eq_true, decide_eq_true_eq] at hj
    exact hj.1
  unfold State.faultOf State.memoryFault State.operandAccessible State.neededOf State.alignmentChecked
  rw [s.acOn_eq]
  by_cases h1 : p.align16 = true ∧ p.lin.toNat % 16 ≠ 0
  · simp [h1.1, h1.2]
  · have h1' : (p.align16 && decide (p.lin.toNat % 16 ≠ 0)) = false := by
      cases hp : p.align16 <;> simp [hp] at h1 ⊢; exact h1
    rw [h1']
    simp only [Bool.false_eq_true, if_false]
    by_cases h2 : ((s.neededBytes p.lin 0 ((List.range p.elems).map (s.needsElement i p))).any s.segmentFault) = true
    · rw [if_pos h2]
      obtain ⟨j, _, hj, hjs⟩ := hseg.mp h2
      refine iff_of_false (by simp) (fun hc => ?_)
      rw [(hc.2.1 j hj).1] at hjs
      cases hjs
    · rw [if_neg h2]
      have h2' : ∀ j, s.needsElement i p j = true → s.segmentOk p.lin j = true := by
        intro j hj
        by_contra hne
        exact h2 (hseg.mpr ⟨j, hlt j hj, hj, by simpa using hne⟩)
      by_cases h3 : (p.bcst && s.anyActive i && (s.cr0[18] && s.rflags[18] && decide (s.cpl = 3)) &&
          decide (p.lin.toNat % 8 ≠ 0)) = true
      · rw [if_pos h3]
        exact iff_of_false (by simp) (fun hc => by rw [hc.2.2] at h3; cases h3)
      · rw [if_neg h3, hpg]
        constructor
        · exact fun hp => ⟨fun ha => by by_contra hne; exact h1 ⟨ha, hne⟩,
            fun j hj => ⟨h2' j hj, hp j (hlt j hj) hj⟩, by simpa using h3⟩
        · exact fun hc j _ hj => (hc.2.1 j hj).2

/-- The operand is refused exactly when it breaks a launch premise (R46). -/
theorem State.memoryRefusal_none (s : State) (i : Instr) (p : MemOperand) (h : s.operandOrdinary i p) :
    s.memoryRefusal p.lin (s.touchedOf i p) = none := by
  have hd := s.any_deviceByte p.lin (fun _ => !p.bcst || s.anyActive i) p.elems
  unfold State.memoryRefusal State.touchedOf
  rw [if_neg]
  · intro hc
    obtain ⟨j, hj, ht, ho⟩ := hd.mp hc
    have : s.ordinary p.lin j = true := h j hj (fun hb => by simpa [hb] using ht)
    rw [this] at ho
    cases ho

/-- A readable source gives the lanes. -/
theorem State.sourceOf_readable (s : State) (i : Instr) (h : s.sourceReadable i) :
    s.sourceOf i = .ok (s.lanesOf i) := by
  cases hm : s.memOperand i with
  | none => exact s.sourceOf_reg i hm
  | some p =>
    rw [s.sourceOf_mem i p hm, (s.faultOf_none i p).mpr (h p hm).1]
    simp only [s.memoryRefusal_none i p (h p hm).2]

end Sys2Proof.Machine
end

