-- ==== Sys2Proof/Laws/Deliver.lean ====
section
/-! SUPPORT. How an execution ends: the condition sets as unions over the active lanes, the two traps
and the delivery, and the elements each destination write places. -/

namespace Sys2Proof.Machine

/-! ### Unions over the lanes -/

theorem preOf_append (a b : List (Option Converted)) : preOf (a ++ b) = preOf a ||| preOf b := by
  induction a with
  | nil => simp [preOf]
  | cons c cs ih => cases c <;> simp [preOf, ih, BitVec.or_assoc]

theorem postOf_append (a b : List (Option Converted)) : postOf (a ++ b) = postOf a ||| postOf b := by
  induction a with
  | nil => simp [postOf]
  | cons c cs ih => cases c <;> simp [postOf, ih, BitVec.or_assoc]

/-- The lanes converted, as one list over the lane numbers. -/
theorem convertLanes_range (env : CvtEnv) (f : Nat → Bool) (x : Nat → Word64) (n : Nat) :
    convertLanes env ((List.range n).map (fun j => if f j then some (x j) else none)) =
      (List.range n).map (fun j => if f j then some (cvt (x j) env) else none) := by
  unfold convertLanes
  rw [List.map_map]
  refine List.map_congr_left (fun j _ => ?_)
  cases hf : f j <;> simp [hf]

theorem preOf_range (f : Nat → Bool) (c : Nat → Converted) (n : Nat) :
    preOf ((List.range n).map (fun j => if f j then some (c j) else none)) =
      unionOver f (fun j => (c j).pre) n := by
  induction n with
  | zero => rfl
  | succ n ih =>
    rw [List.range_succ, List.map_append, preOf_append, ih, unionOver]
    cases hf : f n <;> simp [hf, preOf]

theorem postOf_range (f : Nat → Bool) (c : Nat → Converted) (n : Nat) :
    postOf ((List.range n).map (fun j => if f j then some (c j) else none)) =
      unionOver f (fun j => (c j).post) n := by
  induction n with
  | zero => rfl
  | succ n ih =>
    rw [List.range_succ, List.map_append, postOf_append, ih, unionOver]
    cases hf : f n <;> simp [hf, postOf]

/-- The environments agree with MXCSR's own bits. -/
theorem State.cvtEnv_none (s : State) : cvtEnv s.cfg.ftzFlushesExactTiny s.mxcsr none = s.mxcsrEnv := rfl

theorem State.cvtEnv_some (s : State) (rc : Rounding) :
    cvtEnv s.cfg.ftzFlushesExactTiny s.mxcsr (some rc) = s.erEnv rc := rfl

/-- The conversions of an execution's lanes. -/
def State.convertedOf (s : State) (i : Instr) (env : CvtEnv) : List (Option Converted) :=
  (List.range (vecLenOf i).kl).map
    (fun j => if s.activeLane i j then some (cvt (s.operandLane i j) env) else none)

theorem State.convertLanes_lanesOf (s : State) (i : Instr) (env : CvtEnv) :
    convertLanes env (s.lanesOf i) = s.convertedOf i env :=
  convertLanes_range env _ _ _

theorem State.preOf_convertedOf (s : State) (i : Instr) : preOf (s.convertedOf i s.mxcsrEnv) = s.preSet i :=
  preOf_range _ _ _

theorem State.postOf_convertedOf (s : State) (i : Instr) : postOf (s.convertedOf i s.mxcsrEnv) = s.postSet i :=
  postOf_range _ _ _

/-- The results by lane. -/
def State.resultsFor (s : State) (i : Instr) (env : CvtEnv) : List (Option Single) :=
  (List.range (vecLenOf i).kl).map
    (fun j => if s.activeLane i j then some (cvt (s.operandLane i j) env).r else none)

theorem State.resultsOf_convertedOf (s : State) (i : Instr) (env : CvtEnv) :
    resultsOf (s.convertedOf i env) = s.resultsFor i env := by
  unfold resultsOf State.convertedOf State.resultsFor
  rw [List.map_map]
  refine List.map_congr_left (fun j _ => ?_)
  cases hf : s.activeLane i j <;> simp [hf]

/-! ### The end of an execution -/

theorem State.unmasked_eq (s : State) (c : BitVec 6) : mxUnmasked s.mxcsr c = s.unmasked c := rfl

theorem State.unmasked_or (s : State) (a b : BitVec 6) :
    s.unmasked (a ||| b) = s.unmasked a ||| s.unmasked b := by
  apply BitVec.eq_of_getLsbD_eq
  intro k _
  simp only [State.unmasked, BitVec.getLsbD_and, BitVec.getLsbD_or]
  grind

theorem or_eq_zero_both {w : Nat} {a b : BitVec w} (h : a ||| b = 0) : a = 0 ∧ b = 0 := by
  constructor <;>
  · apply BitVec.eq_of_getLsbD_eq
    intro k hk
    have := congrArg (fun v => v.getLsbD k) h
    simp only [BitVec.getLsbD_or] at this
    simp_all

/-- Both stages are quiet when every detected condition is masked. -/
theorem State.quiet_both {s : State} {i : Instr} (h : s.quiet i) :
    s.unmasked (s.preSet i) = 0 ∧ s.unmasked (s.postSet i) = 0 :=
  or_eq_zero_both (by rw [← s.unmasked_or]; exact h)

/-- The end of an execution without embedded rounding, stage by stage (R120). -/
theorem State.convertAndWrite_plain (s : State) (i : Instr) (dst : BitVec 5)
    (write : BitVec 512 → List (Option Single) → BitVec 512) :
    s.convertAndWrite i.length none dst write (s.lanesOf i) =
      if s.unmasked (s.preSet i) ≠ 0 then
        match s.cfg.xmPolicy with
        | .prePost => s.trapSimd (s.preSet i) (s.preSet i)
        | .anyBetween => s.trapSimd (s.unmasked (s.preSet i)) (s.preSet i ||| s.postSet i)
      else if s.unmasked (s.postSet i) ≠ 0 then
        match s.cfg.xmPolicy with
        | .prePost => s.trapSimd (s.preSet i ||| s.postSet i) (s.preSet i ||| s.postSet i)
        | .anyBetween => s.trapSimd (s.unmasked (s.postSet i)) (s.preSet i ||| s.postSet i)
      else s.complete i.length dst (s.preSet i ||| s.postSet i)
        (write (s.zmmReg dst) (s.resultsFor i s.mxcsrEnv)) := by
  unfold State.convertAndWrite resolve
  rw [s.cvtEnv_none, s.convertLanes_lanesOf, s.preOf_convertedOf, s.postOf_convertedOf, s.resultsOf_convertedOf,
    s.unmasked_eq, s.unmasked_eq]
  simp only [Option.isSome_none, Bool.false_eq_true, if_false]
  by_cases h1 : s.unmasked (s.preSet i) ≠ 0
  · rw [if_pos h1, if_pos h1]
    cases s.cfg.xmPolicy <;> rfl
  · rw [if_neg h1, if_neg h1]
    by_cases h2 : s.unmasked (s.postSet i) ≠ 0
    · rw [if_pos h2, if_pos h2]
      cases s.cfg.xmPolicy <;> rfl
    · rw [if_neg h2, if_neg h2]

/-- The end of an execution with embedded rounding: it delivers and leaves MXCSR (R121). -/
theorem State.convertAndWrite_er (s : State) (i : Instr) (rc : Rounding) (dst : BitVec 5)
    (write : BitVec 512 → List (Option Single) → BitVec 512) :
    s.convertAndWrite i.length (some rc) dst write (s.lanesOf i) =
      s.complete i.length dst 0 (write (s.zmmReg dst) (s.resultsFor i (s.erEnv rc))) := by
  unfold State.convertAndWrite resolve
  rw [s.cvtEnv_some, s.convertLanes_lanesOf, s.resultsOf_convertedOf]
  rfl

/-- An execution is a completion or a SIMD trap. -/
theorem State.convertAndWrite_cases (s : State) (len : Nat) (er : Option Rounding) (dst : BitVec 5)
    (write : BitVec 512 → List (Option Single) → BitVec 512) (lanes : List (Option Word64)) :
    (∃ must may, er = none ∧ s.convertAndWrite len er dst write lanes = s.trapSimd must may) ∨
    (∃ flags rs, s.convertAndWrite len er dst write lanes = s.complete len dst flags (write (s.zmmReg dst) rs)) := by
  unfold State.convertAndWrite
  cases hr : resolve s.cfg.xmPolicy s.mxcsr er.isSome
      (convertLanes (cvtEnv s.cfg.ftzFlushesExactTiny s.mxcsr er) lanes) with
  | deliver flags rs => exact .inr ⟨flags, rs, rfl⟩
  | trap must may =>
    refine .inl ⟨must, may, ?_, rfl⟩
    cases er with
    | none => rfl
    | some rc => simp [resolve] at hr

/-- The completed state, as claims write it. -/
theorem State.complete_eq_completed (s : State) (i : Instr) (dst : BitVec 5) (flags : BitVec 6) (v : Zmm) :
    s.complete i.length dst flags v = s.completed i dst flags v := rfl

/-- The trapped state under `PrePost`, as claims write it. -/
theorem State.trapSimd_eq_trapped (s : State) (flags : BitVec 6) :
    s.trapSimd flags flags = s.trapped (if s.cr4[10] then .xm else .ud) flags := by
  have hcr : s.simdFp.cr2 s.cr2 = s.cr2 := s.simdFp_cr2 s.cr2
  unfold State.trapSimd State.trapped State.raise
  simp only [trapFlags, if_true, mxOr]
  rw [hcr]
  rfl

/-! ### The destination writes -/

theorem placeFrom_getLsbD (z : Bool) (old : BitVec 512) (g : Nat → Option Single) (k n i : Nat) :
    (placeFrom z old k ((List.range' k n).map g)).getLsbD i =
      (decide (i < 512) && decide (32 * k ≤ i ∧ i < 32 * (k + n)) &&
        (mergeElem z old (i / 32) (g (i / 32))).getLsbD (i % 32)) := by
  induction n generalizing k with
  | zero => simp [placeFrom]
  | succ n ih =>
    rw [List.range'_succ, List.map_cons, placeFrom, BitVec.getLsbD_or, ih, BitVec.getLsbD_shiftLeft,
      BitVec.getLsbD_setWidth]
    by_cases h512 : i < 512
    · by_cases h1 : 32 * k ≤ i ∧ i < 32 * (k + 1)
      · have e1 : i / 32 = k := by omega
        have e2 : i % 32 = i - 32 * k := by omega
        have e3 : ¬ i < 32 * k := by omega
        have e4 : i - 32 * k < 512 := by omega
        have e5 : ¬ 32 * (k + 1) ≤ i := by omega
        have e6 : i < 32 * (k + (n + 1)) := by omega
        simp [h512, e1, e2, e3, e4, e5, e6, h1.1]
      · have hz : (decide (i < 512) && !decide (i < 32 * k) &&
            (decide (i - 32 * k < 512) && (mergeElem z old k (g k)).getLsbD (i - 32 * k))) = false := by
          by_cases h2 : i < 32 * k
          · simp [h2]
          · have : 32 ≤ i - 32 * k := by omega
            simp [BitVec.getLsbD_of_ge _ _ this]
        rw [hz, Bool.false_or]
        have hiff : (32 * (k + 1) ≤ i ∧ i < 32 * (k + 1 + n)) ↔ (32 * k ≤ i ∧ i < 32 * (k + (n + 1))) := by omega
        simp only [hiff]
    · simp [h512]

/-- The elements below `n` and the zeros above them. -/
theorem placeFrom_range (z : Bool) (old : BitVec 512) (g : Nat → Option Single) (n : Nat) (hn : n ≤ 16) :
    (∀ j < n, elem32 (placeFrom z old 0 ((List.range n).map g)) j = mergeElem z old j (g j)) ∧
    placeFrom z old 0 ((List.range n).map g) >>> (32 * n) = 0 := by
  rw [List.range_eq_range']
  constructor
  · intro j hj
    apply BitVec.eq_of_getLsbD_eq
    intro i hi
    rw [elem32, BitVec.getLsbD_extractLsb', placeFrom_getLsbD]
    have e1 : (32 * j + i) / 32 = j := by omega
    have e2 : (32 * j + i) % 32 = i := by omega
    have e3 : 32 * j + i < 512 := by omega
    have e4 : 32 * j + i < 32 * (0 + n) := by omega
    have e5 : 32 * j + i < 32 * n := by omega
    simp [hi, e1, e2, e3, e5]
  · apply BitVec.eq_of_getLsbD_eq
    intro i hi
    rw [BitVec.getLsbD_ushiftRight, placeFrom_getLsbD]
    simp

/-- The EVEX write (R165 step 6). -/
theorem State.evexWrite_spec (s : State) (i : Instr) (z : Bool) (old : BitVec 512) (env : CvtEnv) :
    (∀ j < (vecLenOf i).kl, elem32 (evexWrite z old (s.resultsFor i env)) j =
      if s.activeLane i j then (cvt (s.operandLane i j) env).r else if z then 0 else elem32 old j) ∧
    evexWrite z old (s.resultsFor i env) >>> ((vecLenOf i).bits / 2) = 0 := by
  have hk : (vecLenOf i).kl ≤ 16 := by cases vecLenOf i <;> decide
  have hb : (vecLenOf i).bits / 2 = 32 * (vecLenOf i).kl := by cases vecLenOf i <;> decide
  obtain ⟨h1, h2⟩ := placeFrom_range z old
    (fun j => if s.activeLane i j then some (cvt (s.operandLane i j) env).r else none) _ hk
  refine ⟨fun j hj => (h1 j hj).trans ?_, hb ▸ h2⟩
  cases s.activeLane i j <;> simp [mergeElem]

/-- The F-SSE write (R140): its low half is the EVEX write of two lanes, its high part the old one. -/
theorem sseWrite_spec (old : BitVec 512) (r : Nat → Single) :
    (∀ j < 2, elem32 (sseWrite old ((List.range 2).map (fun j => some (r j)))) j = r j) ∧
    (sseWrite old ((List.range 2).map (fun j => some (r j)))).extractLsb' 64 64 = 0 ∧
    (sseWrite old ((List.range 2).map (fun j => some (r j)))).extractLsb' 128 384 = old.extractLsb' 128 384 := by
  obtain ⟨h1, h2⟩ := placeFrom_range true old (fun j => some (r j)) 2 (by decide)
  have hlow : ∀ k < 128, (sseWrite old ((List.range 2).map (fun j => some (r j)))).getLsbD k =
      (placeFrom true old 0 ((List.range 2).map (fun j => some (r j)))).getLsbD k := by
    intro k hk
    show (old.extractLsb' 128 384 ++
      (placeFrom true old 0 ((List.range 2).map (fun j => some (r j)))).setWidth 128).getLsbD k = _
    rw [BitVec.getLsbD_append]
    simp [hk]
  refine ⟨fun j hj => ?_, ?_, ?_⟩
  · refine Eq.trans ?_ (h1 j hj)
    apply BitVec.eq_of_getLsbD_eq
    intro k hk
    rw [elem32, elem32, BitVec.getLsbD_extractLsb', BitVec.getLsbD_extractLsb', hlow _ (by omega)]
  · apply BitVec.eq_of_getLsbD_eq
    intro k hk
    have := congrArg (fun v => v.getLsbD k) h2
    simp only [BitVec.getLsbD_ushiftRight] at this
    rw [BitVec.getLsbD_extractLsb', hlow _ (by omega), this]
    simp
  · apply BitVec.eq_of_getLsbD_eq
    intro k hk
    rw [BitVec.getLsbD_extractLsb']
    show (decide (k < 384) && (old.extractLsb' 128 384 ++
      (placeFrom true old 0 ((List.range 2).map (fun j => some (r j)))).setWidth 128).getLsbD (128 + k)) = _
    rw [BitVec.getLsbD_append]
    simp [hk]

end Sys2Proof.Machine
end

