-- ==== Sys2Proof/Laws/Frame.lean ====
section
/-! SUPPORT. What an execution reads of the state: two states that agree on it have the same `#UD`
condition, the same source and the same end. -/

namespace Sys2Proof.Machine

/-- Two states agree on everything that decides which source an instruction reads. -/
structure State.SameSource (s s' : State) (i : Instr) : Prop where
  mode : s'.mode = s.mode
  gpr : s'.gpr = s.gpr
  rip : s'.rip = s.rip
  base : ∀ r, s'.segBase r = s.segBase r
  mem : s'.mem = s.mem
  cfg : s'.cfg = s.cfg
  active : ∀ j < (vecLenOf i).kl, s'.activeLane i j = s.activeLane i j
  lanes : ∀ n, srcOf s.mode i = some n → ∀ j < (vecLenOf i).kl, s.activeLane i j = true →
    elem64 (s'.zmmReg n) j = elem64 (s.zmmReg n) j

/-- Two states agree on what decides whether a memory operand can be read. -/
structure State.SameAccess (s s' : State) : Prop where
  cpl : s'.cpl = s.cpl
  acOn : s'.acOn = s.acOn

theorem State.byteAddr_congr {s s' : State} (h : s'.mode = s.mode) (lin : Word64) (t : Nat) :
    s'.byteAddr lin t = s.byteAddr lin t := by
  simp [State.byteAddr, h]

theorem State.neededBytes_congr {s s' : State} (h : s'.mode = s.mode) (lin : Word64) (k : Nat) (need : List Bool) :
    s'.neededBytes lin k need = s.neededBytes lin k need := by
  induction need generalizing k with
  | nil => rfl
  | cons b bs ih => cases b <;> simp [State.neededBytes, ih, State.byteAddr_congr h]

theorem State.elementAt_congr {s s' : State} (h : s'.mode = s.mode) (hm : s'.mem = s.mem) (lin : Word64) (j : Nat) :
    s'.elementAt lin j = s.elementAt lin j := by
  simp only [State.elementAt, State.operandByte, State.byteAddr_congr h, hm]

theorem State.linear_congr {s s' : State} (hm : s'.mode = s.mode) (hg : s'.gpr = s.gpr) (hr : s'.rip = s.rip)
    (hb : ∀ r, s'.segBase r = s.segBase r) (pfx : List Prefix) (ext : Ext) (n len : Nat) (a : Addr) :
    s'.linear pfx ext n len a = s.linear pfx ext n len a := by
  cases a <;>
    simp only [State.linear, State.effectiveAddr, State.addrReg, State.indexValue, State.base16, State.x, hm, hg, hr, hb]

theorem State.plainOperand_congr {s s' : State} {i : Instr} (h : s.SameSource s' i) (pfx : List Prefix) (ext : Ext)
    (al : Bool) (rm : Rm) : s'.plainOperand i pfx ext al rm = s.plainOperand i pfx ext al rm := by
  cases rm <;> simp only [State.plainOperand, State.linear_congr h.mode h.gpr h.rip h.base, h.mode]

theorem State.evexOperand_congr {s s' : State} {i : Instr} (h : s.SameSource s' i) (pfx : List Prefix) (e : Evex)
    (rm : EvexRm) : s'.evexOperand i pfx e rm = s.evexOperand i pfx e rm := by
  cases rm <;> simp only [State.evexOperand, State.linear_congr h.mode h.gpr h.rip h.base, h.mode]

theorem State.memOperand_congr {s s' : State} {i : Instr} (h : s.SameSource s' i) :
    s'.memOperand i = s.memOperand i := by
  cases i <;> simp only [State.memOperand, State.plainOperand_congr h, State.evexOperand_congr h]

theorem any_range_congr {n : Nat} {f g : Nat → Bool} (h : ∀ j < n, f j = g j) :
    (List.range n).any f = (List.range n).any g := by
  rw [Bool.eq_iff_iff]
  simp only [List.any_eq_true, List.mem_range]
  exact ⟨fun ⟨j, hj, hf⟩ => ⟨j, hj, h j hj ▸ hf⟩, fun ⟨j, hj, hg⟩ => ⟨j, hj, (h j hj).symm ▸ hg⟩⟩

theorem State.anyActive_congr {s s' : State} {i : Instr} (h : s.SameSource s' i) : s'.anyActive i = s.anyActive i :=
  any_range_congr h.active

theorem State.lanesOf_congr {s s' : State} {i : Instr} (h : s.SameSource s' i) : s'.lanesOf i = s.lanesOf i := by
  unfold State.lanesOf
  refine List.map_congr_left (fun j hj => ?_)
  have hj' := List.mem_range.mp hj
  rw [h.active j hj']
  cases hf : s.activeLane i j with
  | false => rfl
  | true =>
    simp only [if_true, Option.some.injEq, State.operandLane, State.memOperand_congr h, h.mode,
      State.elementAt_congr h.mode h.mem]
    split
    · rfl
    · split
      · next n hn => exact h.lanes n hn j hj' hf
      · rfl

theorem State.neededOf_congr {s s' : State} {i : Instr} (h : s.SameSource s' i) (p : MemOperand)
    (hp : s.memOperand i = some p) : s'.neededOf i p = s.neededOf i p := by
  have hle : p.elems ≤ (vecLenOf i).kl := by
    rcases s.sourceOf_cases i with ⟨n, _, hm, _⟩ | ⟨q, hq, _, he, _⟩ | ⟨q, hq, _, he, _⟩
    · rw [hm] at hp; cases hp
    · rw [hq] at hp; cases hp; omega
    · rw [hq] at hp; cases hp; rw [he]; cases vecLenOf i <;> decide
  unfold State.neededOf
  refine List.map_congr_left (fun j hj => ?_)
  simp only [State.needsElement, h.cfg, State.anyActive_congr h, h.active j (Nat.lt_of_lt_of_le (List.mem_range.mp hj) hle)]

/-- States that agree on what an instruction reads reach the same source. -/
theorem State.sourceOf_congr {s s' : State} {i : Instr} (h : s.SameSource s' i)
    (ha : s.memOperand i ≠ none → s.SameAccess s') : s'.sourceOf i = s.sourceOf i := by
  cases hm : s.memOperand i with
  | none => rw [s.sourceOf_reg i hm, s'.sourceOf_reg i ((State.memOperand_congr h).trans hm), State.lanesOf_congr h]
  | some p =>
    have ha' := ha (by rw [hm]; simp)
    have hseg : s'.segmentFault = s.segmentFault := by
      funext a; simp only [State.segmentFault, h.mode, h.cfg]
    have hpg : s'.pageFault = s.pageFault := by
      funext a; simp only [State.pageFault, h.cfg, ha'.cpl]
    have hdev : s'.deviceByte = s.deviceByte := by
      funext a; simp only [State.deviceByte, h.cfg]
    have hf : s'.faultOf i p = s.faultOf i p := by
      simp only [State.faultOf, State.memoryFault, State.neededOf_congr h p hm, State.neededBytes_congr h.mode,
        hseg, hpg, ha'.acOn, State.anyActive_congr h]
    have hr : s'.memoryRefusal p.lin (s'.touchedOf i p) = s.memoryRefusal p.lin (s.touchedOf i p) := by
      have ht : s'.touchedOf i p = s.touchedOf i p := by
        simp only [State.touchedOf, State.anyActive_congr h]
      unfold State.memoryRefusal
      rw [ht, State.neededBytes_congr h.mode, hdev]
    rw [s.sourceOf_mem i p hm, s'.sourceOf_mem i p ((State.memOperand_congr h).trans hm), hf, hr, State.lanesOf_congr h]

end Sys2Proof.Machine
end

