-- ==== Sys2Proof/Laws/Exec.lean ====
section
/-! SUPPORT. The inversion lemmas of an execution: what a next state can be, where an operand's exception
comes from, and how two executions that read the same relate. -/

namespace Sys2Proof.Machine

/-- Past steps 1 to 3 of R205 an execution does what its source says. -/
theorem exec_ready {s : State} {i : Instr} (h : s.ready i) :
    exec i s =
      match s.sourceOf i with
      | .raise e => .next (s.raise e)
      | .refuse why => .refused why
      | .ok lanes => .next (s.convertAndWrite i.length (erOf i) (dstOf s.mode i) (writeOf i) lanes) := by
  exact (exec_eq_execute _ _).trans (s.execute_ready h.1 (by rw [s.udOf_eq, h.2.1]; rfl) h.2.2 _ _ _ _)

/-- An exception of the source is one of the operand. -/
theorem State.faultOf_of_sourceOf_raise {s : State} {i : Instr} {e : Exn} (h : s.sourceOf i = .raise e) :
    ∃ p, s.memOperand i = some p ∧ s.faultOf i p = some e := by
  cases hm : s.memOperand i with
  | none => rw [s.sourceOf_reg i hm] at h; cases h
  | some p =>
    refine ⟨p, rfl, ?_⟩
    rw [s.sourceOf_mem i p hm] at h
    cases hf : s.faultOf i p with
    | some e' => rw [hf] at h; cases h; rfl
    | none =>
      rw [hf] at h
      cases hr : s.memoryRefusal p.lin (s.touchedOf i p) <;> simp only [hr] at h <;> cases h

/-- A source that was reached is the lanes of the instruction. -/
theorem State.lanes_of_sourceOf_ok {s : State} {i : Instr} {lanes : List (Option Word64)}
    (h : s.sourceOf i = .ok lanes) : lanes = s.lanesOf i := by
  cases hm : s.memOperand i with
  | none => rw [s.sourceOf_reg i hm] at h; cases h; rfl
  | some p =>
    rw [s.sourceOf_mem i p hm] at h
    cases hf : s.faultOf i p with
    | some e' => rw [hf] at h; cases h
    | none =>
      rw [hf] at h
      cases hr : s.memoryRefusal p.lin (s.touchedOf i p) <;> simp only [hr] at h <;> cases h
      rfl

/-- The exceptions an operand can raise: `#GP`, `#SS`, `#AC`, or the page fault of one of its bytes. -/
theorem State.faultOf_kinds {s : State} {i : Instr} {p : MemOperand} {e : Exn} (h : s.faultOf i p = some e) :
    e = .gp ∨ e = .ss ∨ e = .ac ∨
      ∃ a fc, e = .pf a fc ∧ s.pageFault a = some e ∧ fc[1] = false ∧ fc[2] = decide (s.cpl = 3) := by
  unfold State.faultOf State.memoryFault at h
  split at h
  · cases h; exact .inl rfl
  · split at h
    · split at h
      · cases h; exact .inr (.inl rfl)
      · cases h; exact .inl rfl
    · split at h
      · cases h; exact .inr (.inr (.inl rfl))
      · obtain ⟨a, _, ha⟩ := List.exists_of_findSome?_eq_some h
        obtain ⟨fc, hfc, h1, h2⟩ := s.pageFault_some a ha
        exact .inr (.inr (.inr ⟨a, fc, hfc, ha, h1, h2⟩))

/-- What the next state of an execution can be: an exception raised in `s`, a SIMD trap, or a
completion. -/
theorem exec_next_cases {s t : State} {i : Instr} (h : exec i s = .next t) :
    (∃ e, t = s.raise e ∧
      (e = .ud ∨ e = .nm ∨ e = .gp ∨ e = .ss ∨ e = .ac ∨
        ∃ a fc, e = .pf a fc ∧ s.pageFault a = some e ∧ fc[1] = false ∧ fc[2] = decide (s.cpl = 3))) ∨
    (∃ must may, erOf i = none ∧ t = s.trapSimd must may) ∨
    (∃ flags rs, s.enabled i = true ∧
      t = s.complete i.length (dstOf s.mode i) flags (writeOf i (s.zmmReg (dstOf s.mode i)) rs)) := by
  rw [exec_eq_execute] at h
  rcases s.execute_cases i.length (s.udOf i) (s.sourceOf i) (erOf i) (dstOf s.mode i) (writeOf i) with
    ⟨_, hx⟩ | ⟨_, _, hx⟩ | ⟨_, _, _, hx⟩ | ⟨_, hu, _, ⟨e, hs, hx⟩ | ⟨w, _, hx⟩ | ⟨lanes, _, hx⟩⟩ <;>
    rw [hx] at h <;> cases h
  · exact .inl ⟨.gp, rfl, by simp⟩
  · exact .inl ⟨.ud, rfl, by simp⟩
  · exact .inl ⟨.nm, rfl, by simp⟩
  · obtain ⟨p, _, hf⟩ := State.faultOf_of_sourceOf_raise hs
    refine .inl ⟨e, rfl, ?_⟩
    rcases State.faultOf_kinds hf with h | h | h | h
    · exact .inr (.inr (.inl h))
    · exact .inr (.inr (.inr (.inl h)))
    · exact .inr (.inr (.inr (.inr (.inl h))))
    · exact .inr (.inr (.inr (.inr (.inr h))))
  · have he : s.enabled i = true := by
      rw [s.udOf_eq] at hu
      simpa using hu
    rcases s.convertAndWrite_cases i.length (erOf i) (dstOf s.mode i) (writeOf i) lanes with
      ⟨must, may, her, hc⟩ | ⟨flags, rs, hc⟩
    · exact .inr (.inl ⟨must, may, her, hc⟩)
    · exact .inr (.inr ⟨flags, rs, he, hc⟩)

/-- Two executions that read the same end the same, up to a map `f` of the states that commutes with the
three ways an execution ends. -/
theorem exec_transport {s s' t : State} {i : Instr} (f : State → State) (hsrc : s'.sourceOf i = s.sourceOf i)
    (hud : s'.udOf i = s.udOf i) (hts : s'.ts = s.ts) (hmode : s'.mode = s.mode) (hcfg : s'.cfg = s.cfg)
    (hmx : s'.mxcsr = s.mxcsr) (hold : s'.zmmReg (dstOf s.mode i) = s.zmmReg (dstOf s.mode i))
    (hraise : ∀ e, s'.raise e = f (s.raise e)) (htrap : ∀ must may, s'.trapSimd must may = f (s.trapSimd must may))
    (hdone : ∀ flags v, s'.complete i.length (dstOf s.mode i) flags v = f (s.complete i.length (dstOf s.mode i) flags v))
    (hx : exec i s = .next t) : exec i s' = .next (f t) := by
  rw [exec_eq_execute] at hx ⊢
  rw [hsrc, hud, hmode]
  rcases s.execute_cases i.length (s.udOf i) (s.sourceOf i) (erOf i) (dstOf s.mode i) (writeOf i) with
    ⟨h1, h⟩ | ⟨h1, h2, h⟩ | ⟨h1, h2, h3, h⟩ | ⟨h1, h2, h3, ⟨e, hs, h⟩ | ⟨w, hs, h⟩ | ⟨lanes, hs, h⟩⟩ <;>
    rw [h] at hx <;> cases hx
  · rw [State.execute.eq_def, if_pos h1, hraise]
  · rw [State.execute.eq_def, if_neg (by omega), if_pos h2, hraise]
  · rw [State.execute.eq_def, if_neg (by omega), h2, hts, h3]
    simp [hraise]
  · rw [s'.execute_ready h1 h2 (hts.trans h3), hs]
    simp only [hraise]
  · rw [s'.execute_ready h1 h2 (hts.trans h3), hs]
    simp only
    unfold State.convertAndWrite
    rw [hcfg, hmx, hold]
    cases resolve s.cfg.xmPolicy s.mxcsr (erOf i).isSome
        (convertLanes (cvtEnv s.cfg.ftzFlushesExactTiny s.mxcsr (erOf i)) lanes) with
    | trap must may => simp only [htrap]
    | deliver flags rs => simp only [hdone]

end Sys2Proof.Machine
end

