-- ==== Sys2Proof/Laws/Memory.lean ====
section
/-! SUPPORT. The laws of memory: reading after a write, and the canonical form is kept. -/

namespace Sys2Proof.Machine

/-- The canonical form holds from every lower address. -/
theorem Memory.wfFrom_mono {lo lo' : Nat} (h : lo' ≤ lo) {m : Memory} (hm : Memory.wfFrom lo m = true) :
    Memory.wfFrom lo' m = true := by
  cases m with
  | nil => rfl
  | cons c m =>
    obtain ⟨a, v⟩ := c
    simp only [Memory.wfFrom, Bool.and_eq_true, decide_eq_true_eq] at hm ⊢
    exact ⟨⟨⟨by omega, hm.1.1.2⟩, hm.1.2⟩, hm.2⟩

/-- Below its first address a canonical memory lists nothing. -/
theorem Memory.readByte_below {lo : Nat} {m : Memory} (hm : Memory.wfFrom lo m = true) {x : Nat} (h : x < lo) :
    Memory.readByte m x = unlistedByte := by
  induction m generalizing lo with
  | nil => rfl
  | cons c m ih =>
    obtain ⟨a, v⟩ := c
    simp only [Memory.wfFrom, Bool.and_eq_true, decide_eq_true_eq] at hm
    have hne : a ≠ x := by omega
    simp only [Memory.readByte, hne, if_false]
    exact ih hm.2 (by omega)

/-- A write keeps the canonical form. -/
theorem Memory.wfFrom_writeByte {lo : Nat} {m : Memory} (hm : Memory.wfFrom lo m = true) {x : Nat}
    (h : lo ≤ x) (hx : x < 2 ^ 64) (v : Byte) : Memory.wfFrom lo (Memory.writeByte m x v) = true := by
  induction m generalizing lo with
  | nil =>
    by_cases hv : v = unlistedByte
    · simp [Memory.writeByte, hv, Memory.wfFrom]
    · simp only [Memory.writeByte, hv, if_false, Memory.wfFrom, decide_eq_true_eq, Bool.and_eq_true]
      exact ⟨⟨⟨h, hx⟩, hv⟩, trivial⟩
  | cons c m ih =>
    obtain ⟨a, w⟩ := c
    have hm' := hm
    simp only [Memory.wfFrom, Bool.and_eq_true, decide_eq_true_eq] at hm'
    obtain ⟨⟨⟨hlo, ha⟩, hw⟩, hrest⟩ := hm'
    by_cases hxa : x < a
    · by_cases hv : v = unlistedByte
      · simpa only [Memory.writeByte, hxa, hv, if_true] using hm
      · simp only [Memory.writeByte, hxa, hv, if_true, if_false, Memory.wfFrom, decide_eq_true_eq,
          Bool.and_eq_true]
        exact ⟨⟨⟨h, hx⟩, hv⟩, ⟨⟨by omega, ha⟩, hw⟩, hrest⟩
    · by_cases hxe : x = a
      · by_cases hv : v = unlistedByte
        · simp only [Memory.writeByte, hxe, hv, if_true, if_false, lt_irrefl]
          exact Memory.wfFrom_mono (by omega) hrest
        · simp only [Memory.writeByte, hxe, hv, if_true, if_false, lt_irrefl, Memory.wfFrom,
            decide_eq_true_eq, Bool.and_eq_true]
          exact ⟨⟨⟨hlo, ha⟩, hv⟩, hrest⟩
      · simp only [Memory.writeByte, hxa, hxe, if_false, Memory.wfFrom, decide_eq_true_eq,
          Bool.and_eq_true]
        exact ⟨⟨⟨hlo, ha⟩, hw⟩, ih hrest (by omega)⟩

theorem Memory.wf_writeByte {m : Memory} (hm : Memory.wf m = true) {x : Nat} (hx : x < 2 ^ 64) (v : Byte) :
    Memory.wf (Memory.writeByte m x v) = true :=
  Memory.wfFrom_writeByte hm (Nat.zero_le x) hx v

theorem Memory.wf_writeBytes {m : Memory} (hm : Memory.wf m = true) (l : List (Nat × Byte))
    (hl : ∀ c ∈ l, c.1 < 2 ^ 64) : Memory.wf (Memory.writeBytes m l) = true := by
  induction l generalizing m with
  | nil => exact hm
  | cons c l ih =>
    obtain ⟨x, v⟩ := c
    exact ih (Memory.wf_writeByte hm (hl (x, v) (by simp)) v) (fun c hc => hl c (by simp [hc]))

/-- Loading bytes at the program counter keeps the canonical form. -/
theorem State.wf_loadAtRip {s : State} (hm : Memory.wf s.mem = true) (bytes : List Byte) :
    Memory.wf (s.loadAtRip bytes).mem = true := by
  refine Memory.wf_writeBytes hm _ ?_
  intro c hc
  obtain ⟨i, hi, rfl⟩ := List.mem_mapIdx.mp hc
  exact (s.fetchAddr i).isLt

/-- A read of the written byte gives the value written. -/
theorem Memory.readByte_writeByte_same {lo : Nat} {m : Memory} (hm : Memory.wfFrom lo m = true) (x : Nat)
    (v : Byte) : Memory.readByte (Memory.writeByte m x v) x = v := by
  induction m generalizing lo with
  | nil =>
    by_cases hv : v = unlistedByte
    · simp [Memory.writeByte, hv, Memory.readByte]
    · simp [Memory.writeByte, hv, Memory.readByte]
  | cons c m ih =>
    obtain ⟨a, w⟩ := c
    have hm' := hm
    simp only [Memory.wfFrom, Bool.and_eq_true, decide_eq_true_eq] at hm'
    by_cases hxa : x < a
    · by_cases hv : v = unlistedByte
      · have hne : a ≠ x := by omega
        simp only [Memory.writeByte, hxa, hv, if_true, Memory.readByte, hne, if_false]
        exact Memory.readByte_below hm'.2 (by omega)
      · simp [Memory.writeByte, hxa, hv, Memory.readByte]
    · by_cases hxe : x = a
      · subst hxe
        by_cases hv : v = unlistedByte
        · simp only [Memory.writeByte, hv, if_true, if_false, lt_irrefl]
          exact Memory.readByte_below hm'.2 (by omega)
        · simp [Memory.writeByte, hv, Memory.readByte]
      · have hne : a ≠ x := fun e => hxe e.symm
        simp only [Memory.writeByte, hxa, hxe, if_false, Memory.readByte, hne]
        exact ih hm'.2

/-- A write leaves every other byte alone. -/
theorem Memory.readByte_writeByte_other (m : Memory) {x y : Nat} (h : y ≠ x) (v : Byte) :
    Memory.readByte (Memory.writeByte m x v) y = Memory.readByte m y := by
  have h' : x ≠ y := fun e => h e.symm
  induction m with
  | nil =>
    by_cases hv : v = unlistedByte
    · simp [Memory.writeByte, hv]
    · simp [Memory.writeByte, hv, Memory.readByte, h']
  | cons c m ih =>
    obtain ⟨a, w⟩ := c
    by_cases hxa : x < a
    · by_cases hv : v = unlistedByte
      · simp [Memory.writeByte, hxa, hv]
      · simp [Memory.writeByte, hxa, hv, Memory.readByte, h']
    · by_cases hxe : x = a
      · subst hxe
        by_cases hv : v = unlistedByte
        · simp [Memory.writeByte, hv, Memory.readByte, h']
        · simp [Memory.writeByte, hv, Memory.readByte, h']
      · simp only [Memory.writeByte, hxa, hxe, if_false, Memory.readByte]
        split
        · rfl
        · exact ih

/-- The reset memory is canonical. -/
theorem State.reset_mem_wf : Memory.wf State.reset.mem = true := rfl

end Sys2Proof.Machine
end

