-- ==== Sys2Proof/Laws/PerInstr.lean ====
section
/-! SUPPORT. The family of per-instruction statements `EncodeLength`: the encoding of an instruction has
the length R88 gives it, one lemma per constructor. -/

namespace Sys2Proof.Laws

theorem encodeDisp_length (d : Disp) : (encodeDisp d).length = dispLength d := by
  cases d <;> rfl

theorem encodeDisp16_length (d : Disp16) : (encodeDisp16 d).length = disp16Length d := by
  cases d <;> rfl

/-- ModRM with what follows it: one byte and the tail (R88). -/
theorem encodeAddr_length (reg : BitVec 3) (a : Addr) : (encodeAddr reg a).length = 1 + addrLength a := by
  cases a <;> simp [encodeAddr, addrLength, encodeDisp_length, encodeDisp16_length, dispLength, disp16Length] <;> omega

theorem encodeRm_length (reg : BitVec 3) (rm : Rm) : (encodeRm reg rm).length = 1 + rmLength rm := by
  cases rm with
  | reg n => rfl
  | mem a => exact encodeAddr_length reg a

theorem encodeEvex_length (e : Evex) (ll : BitVec 2) (reg : BitVec 3) (rm : EvexRm) :
    (encodeEvex e ll reg rm).length = 6 + evexRmLength rm := by
  cases rm <;> simp [encodeEvex, encodeRm_length, rmLength, evexRmLength] <;> omega

namespace EncodeLength

/-- `ilen` of R88 is the number of bytes of the encoding. -/
def Statement (i : Instr) : Prop := (encode i).length = i.length

theorem cvtpd2ps (pfx : List Prefix) (reg : BitVec 3) (rm : Rm) : Statement (.cvtpd2ps pfx reg rm) := by
  simp [Statement, encode, prefixesOf, encodeBody, encodeRm_length, Instr.length, instrLength]; omega

theorem vcvtpd2psVex128C5 (pfx : List Prefix) (v : Vex2) (reg : BitVec 3) (rm : Rm) :
    Statement (.vcvtpd2psVex128C5 pfx v reg rm) := by
  simp [Statement, encode, prefixesOf, encodeBody, encodeRm_length, Instr.length, instrLength]; omega

theorem vcvtpd2psVex128C4 (pfx : List Prefix) (v : Vex3) (reg : BitVec 3) (rm : Rm) :
    Statement (.vcvtpd2psVex128C4 pfx v reg rm) := by
  simp [Statement, encode, prefixesOf, encodeBody, encodeRm_length, Instr.length, instrLength]; omega

theorem vcvtpd2psVex256C5 (pfx : List Prefix) (v : Vex2) (reg : BitVec 3) (rm : Rm) :
    Statement (.vcvtpd2psVex256C5 pfx v reg rm) := by
  simp [Statement, encode, prefixesOf, encodeBody, encodeRm_length, Instr.length, instrLength]; omega

theorem vcvtpd2psVex256C4 (pfx : List Prefix) (v : Vex3) (reg : BitVec 3) (rm : Rm) :
    Statement (.vcvtpd2psVex256C4 pfx v reg rm) := by
  simp [Statement, encode, prefixesOf, encodeBody, encodeRm_length, Instr.length, instrLength]; omega

theorem vcvtpd2psEvex128 (pfx : List Prefix) (e : Evex) (reg : BitVec 3) (rm : EvexRm) :
    Statement (.vcvtpd2psEvex128 pfx e reg rm) := by
  simp [Statement, encode, prefixesOf, encodeBody, encodeEvex_length, Instr.length, instrLength]; omega

theorem vcvtpd2psEvex256 (pfx : List Prefix) (e : Evex) (reg : BitVec 3) (rm : EvexRm) :
    Statement (.vcvtpd2psEvex256 pfx e reg rm) := by
  simp [Statement, encode, prefixesOf, encodeBody, encodeEvex_length, Instr.length, instrLength]; omega

theorem vcvtpd2psEvex512 (pfx : List Prefix) (e : Evex) (lenRes : Bool) (reg : BitVec 3) (rm : EvexRm) :
    Statement (.vcvtpd2psEvex512 pfx e lenRes reg rm) := by
  simp [Statement, encode, prefixesOf, encodeBody, encodeEvex_length, Instr.length, instrLength]; omega

theorem vcvtpd2psEvex512Er (pfx : List Prefix) (e : Evex) (rc : Rounding) (reg src : BitVec 3) :
    Statement (.vcvtpd2psEvex512Er pfx e rc reg src) := by
  simp [Statement, encode, prefixesOf, encodeBody, encodeRm, Instr.length, instrLength]

end EncodeLength

end Sys2Proof.Laws
end

