-- ==== Sys2Proof/Laws/Step.lean ====
section
/-! SUPPORT. The fetch and the boundary of a step: when the fetch faults, what a next state of a step
can be, and what the boundary makes of a state. -/

namespace Sys2Proof.Machine

/-- The check of the fetch says what `State.fetchable` does (R22). -/
theorem State.nonCanonicalFetch_eq_false_iff (s : State) (n : Nat) :
    s.nonCanonicalFetch n = false ↔ s.fetchable n := by
  simp only [State.nonCanonicalFetch, State.fetchable, State.fetchableByte, Bool.and_eq_false_iff,
    decide_eq_false_iff_not, List.any_eq_false, List.mem_range, Bool.not_eq_true', canonical,
    Classical.not_not, Decidable.imp_iff_not_or]

/-- The fetch of a decoded instruction faults exactly when one of its bytes cannot be fetched. -/
theorem State.fetchFault_of_decoded {s : State} {i : Instr} (h : decode s.mode s.fetchBytes = .instr i) :
    s.fetchFault = if s.nonCanonicalFetch i.length then some .gp else none := by
  unfold State.fetchFault State.decodeAtRip
  rw [h]

/-- A fetch that faults raises `#GP(0)`. -/
theorem State.fetchFault_cases (s : State) : s.fetchFault = none ∨ s.fetchFault = some .gp := by
  unfold State.fetchFault
  generalize s.nonCanonicalFetch _ = b
  cases b
  · exact .inl rfl
  · exact .inr rfl

/-- A pc chosen for a load is one at which 15 bytes can be fetched. -/
theorem State.fetchablePc_fetchable (s : State) : s.fetchablePc.fetchable 15 := by
  unfold State.fetchablePc
  cases h : s.nonCanonicalFetch 15 with
  | false => exact (s.nonCanonicalFetch_eq_false_iff 15).mp h
  | true =>
    intro hm t ht
    have hm' : State.mode { s with rip := 0 } = .long64 := hm
    have ha : State.fetchAddr { s with rip := 0 } t = BitVec.ofNat 64 t := by
      unfold State.fetchAddr truncMode
      rw [hm']
      simp
    refine .inl ?_
    show (State.fetchAddr { s with rip := 0 } t).extractLsb' 47 17 = 0
    rw [ha]
    apply BitVec.eq_of_toNat_eq
    rw [BitVec.extractLsb'_toNat, BitVec.toNat_ofNat, Nat.shiftRight_eq_div_pow]
    have : t % 2 ^ 64 / 2 ^ 47 = 0 := by omega
    rw [this]
    rfl

/-- What the boundary makes of a state: itself, a moved counter, or the debug trap (R214). -/
theorem State.boundary_cases (i : Instr) (s : State) :
    ∃ c, s.boundary i = { s with freeCount := c } ∨
      (s.raised = none ∧ s.boundary i = State.raise { s with freeCount := c } .db) := by
  unfold State.boundary
  split
  · exact ⟨s.freeCount, .inl rfl⟩
  · next hr =>
    have hr' : s.raised = none := by simpa using hr
    split
    · exact ⟨s.freeCount, .inr ⟨hr', rfl⟩⟩
    · split
      · split
        · exact ⟨s.freeCount + 1, .inr ⟨hr', rfl⟩⟩
        · exact ⟨s.freeCount + 1, .inl rfl⟩
      · exact ⟨s.freeCount, .inl rfl⟩

/-- A next state of a step: `#GP(0)` at the fetch, or the boundary after the decoded instruction. -/
theorem step_next_cases {s t : State} (h : step s = .next t) :
    s.raised = none ∧
      (t = s.raise .gp ∨
        ∃ i u, decode s.mode s.fetchBytes = .instr i ∧ exec i s = .next u ∧ t = u.boundary i) := by
  unfold step at h
  split at h
  · cases h
  · next hr =>
    refine ⟨hr, ?_⟩
    rcases s.fetchFault_cases with hf | hf <;> rw [hf] at h
    · simp only at h
      split at h
      · next i hd =>
        cases hx : exec i s with
        | fault r => rw [hx] at h; cases h
        | refused r => rw [hx] at h; cases h
        | next u => rw [hx] at h; cases h; exact .inr ⟨i, u, hd, hx, rfl⟩
      · cases h; exact .inl rfl
      · cases h
    · cases h; exact .inl rfl

end Sys2Proof.Machine
end

