-- ==== Sys2Proof/Tests/Slice0.lean ====
section
/-! SUPPORT. The model's own tests: ill-formed terms that `WellFormed` refuses, words written out from the
spec's encodings, one or two steps per instruction with the results the spec prints, and a witness
for the hypotheses of each statement. -/

namespace Sys2Proof.Tests

open Sys2Proof.Machine

-- Each test is checked before the next: as one text the waiting threads outgrow the memory limit.
set_option Elab.async false

/-! ### Ill-formed terms -/

theorem test_fits_base_needs_sib : Instr.encodable .long64 (.cvtpd2ps [.opSize] 1 (.mem (.base 4 .none))) = false := by decide
theorem test_fits_base_disp_only : Instr.encodable .long64 (.cvtpd2ps [.opSize] 1 (.mem (.base 5 .none))) = false := by decide
theorem test_fits_sib_no_base : Instr.encodable .long64 (.cvtpd2ps [.opSize] 1 (.mem (.sib 0 0 5 .none))) = false := by decide
theorem test_fits_base16_disp_only : Instr.encodable .real (.cvtpd2ps [.opSize] 1 (.mem (.base16 6 .none))) = false := by decide
theorem test_fits_16_in_long64 : Instr.encodable .long64 (.cvtpd2ps [.opSize] 1 (.mem (.base16 0 .none))) = false := by decide
theorem test_fits_32_in_real : Instr.encodable .real (.cvtpd2ps [.opSize] 1 (.mem (.dispOnly 0))) = false := by decide
theorem test_rex_outside_long64 : Instr.encodable .prot32 (.cvtpd2ps [.opSize, .rex false false false true] 1 (.reg 2)) = false := by decide
theorem test_sse_needs_66 : Instr.encodable .long64 (.cvtpd2ps [] 1 (.reg 2)) = false := by decide
theorem test_sse_f3_is_neighbour : Instr.encodable .long64 (.cvtpd2ps [.opSize, .rep] 1 (.reg 2)) = false := by decide
theorem test_sse_f2_is_neighbour : Instr.encodable .long64 (.cvtpd2ps [.opSize, .repne] 1 (.reg 2)) = false := by decide
theorem test_vex2_r_outside_long64 : Instr.encodable .compat32 (.vcvtpd2psVex128C5 [] ⟨true, 15⟩ 1 (.reg 2)) = false := by decide
theorem test_vex3_x_outside_long64 : Instr.encodable .compat32 (.vcvtpd2psVex256C4 [] ⟨false, true, false, false, 15⟩ 1 (.reg 2)) = false := by decide

/-- A plain EVEX payload: registers 0 to 7, no mask, merging. -/
def plainEvex : Evex := ⟨false, false, false, false, 0, true, 15, true, false, true, 0⟩

/-- R83 rows 6 to 9 hold in every mode, and R75 treats the extension bits as 0 there. -/
theorem test_evex_r_outside_long64 : decode .prot32 [0x62, 0x71, 0xFD, 0x48, 0x5A, 0xC2] =
    .instr (.vcvtpd2psEvex512 [] { plainEvex with r := true } false 0 (.reg 2)) ∧
    vecNum .prot32 plainEvex.rHi true 0 = 0 := by decide
theorem test_les_is_not_vex : decode .prot32 [0xC4, 0x61, 0x79, 0x5A, 0xC2] = .notThis .lesLds := by decide
theorem test_lock_illegal : Instr.legal (.cvtpd2ps [.opSize, .lock] 1 (.reg 2)) = false := by decide
theorem test_rex_before_vex_illegal : Instr.legal (.vcvtpd2psVex128C5 [.rex true false false false] ⟨false, 15⟩ 1 (.reg 2)) = false := by decide
theorem test_vvvv_illegal : Instr.legal (.vcvtpd2psVex128C5 [] ⟨false, 14⟩ 1 (.reg 2)) = false := by decide
/-- R196 compares the four stored bits in every mode. -/
theorem test_vvvv_bit3_in_32 : Instr.legal (.vcvtpd2psVex128C4 [] ⟨false, false, false, false, 7⟩ 1 (.reg 2)) = false ∧
    State.vexUd { State.reset with cr0 := 0x60000011, cr4 := 0x40600, xcr0 := 0xE7 } [] 7 .v128 = true ∧
    State.vexUd { State.reset with cr0 := 0x60000011, cr4 := 0x40600, xcr0 := 0xE7 } [] 15 .v128 = false := by
  decide +kernel
theorem test_evex_vvvv_illegal : Instr.legal (.vcvtpd2psEvex128 [] { plainEvex with vvvv := 14 } 1 (.reg 2)) = false := by decide
theorem test_evex_vhi_illegal : Instr.legal (.vcvtpd2psEvex256 [] { plainEvex with vHi := false } 1 (.reg 2)) = false := by decide
theorem test_evex_w0_illegal : Instr.legal (.vcvtpd2psEvex512 [] { plainEvex with w := false } false 1 (.reg 2)) = false := by decide
theorem test_evex_p0_reserved_illegal : Instr.legal (.vcvtpd2psEvex512Er [] { plainEvex with res := 1 } .zero 1 2) = false := by decide
theorem test_evex_p1_fixed_illegal : Instr.legal (.vcvtpd2psEvex128 [] { plainEvex with fix := false } 1 (.reg 2)) = false := by decide
theorem test_evex_z_without_mask_illegal : Instr.legal (.vcvtpd2psEvex128 [] { plainEvex with z := true } 1 (.reg 2)) = false := by decide
theorem test_evex_reserved_length_illegal : Instr.legal (.vcvtpd2psEvex512 [] plainEvex true 1 (.reg 2)) = false := by decide

/-! ### Words written out from the encodings (R61, R64, R65, R70, R76; R82 for 16-bit addressing) -/

/-- 66; REX.R; 0F 5A; ModRM 11 001 010. -/
theorem test_decode_sse : decode .long64 [0b01100110, 0b01000100, 0b00001111, 0b01011010, 0b11001010] =
    .instr (.cvtpd2ps [.opSize, .rex false true false false] 1 (.reg 2)) := by decide
/-- C5; R̄=0 v̄=1111 L=0 pp=01; 5A; ModRM 01 011 100, SIB 10 001 101, disp8. -/
theorem test_decode_vex128_c5 : decode .long64 [0b11000101, 0b01111001, 0b01011010, 0b01011100, 0b10001101, 0x80] =
    .instr (.vcvtpd2psVex128C5 [] ⟨true, 15⟩ 3 (.mem (.sib 2 1 5 (.disp8 0x80)))) := by decide
/-- C4; R̄=1 X̄=0 B̄=0 m=00001; W=1 v̄=1111 L=0 pp=01; 5A; ModRM 11 001 010. -/
theorem test_decode_vex128_c4 : decode .long64 [0b11000100, 0b10000001, 0b11111001, 0b01011010, 0b11001010] =
    .instr (.vcvtpd2psVex128C4 [] ⟨false, true, true, true, 15⟩ 1 (.reg 2)) := by decide
/-- C5; R̄=1 v̄=1111 L=1 pp=01; 5A; ModRM 00 001 101, disp32 (RIP-relative). -/
theorem test_decode_vex256_c5 : decode .long64 [0b11000101, 0b11111101, 0b01011010, 0b00001101, 1, 2, 3, 4] =
    .instr (.vcvtpd2psVex256C5 [] ⟨false, 15⟩ 1 (.mem (.dispOnly 0x04030201))) := by decide
/-- FS override; C4; R̄=1 X̄=1 B̄=0; W=0 v̄=1111 L=1 pp=01; 5A; ModRM 10 001 000, disp32. -/
theorem test_decode_vex256_c4 : decode .long64 [0x64, 0b11000100, 0b11000001, 0b01111101, 0b01011010, 0b10001000, 4, 3, 2, 1] =
    .instr (.vcvtpd2psVex256C4 [.seg .fs] ⟨false, false, true, false, 15⟩ 1 (.mem (.base 0 (.disp32 0x01020304)))) := by decide
/-- 62; R̄X̄B̄R̄'=1111 00 01; W=1 v̄=1111 1 01; z=1 L'L=00 b=0 V̄'=1 aaa=001; 5A; ModRM 11 001 010. -/
theorem test_decode_evex128 : decode .long64 [0b01100010, 0b11110001, 0b11111101, 0b10001001, 0b01011010, 0b11001010] =
    .instr (.vcvtpd2psEvex128 [] { plainEvex with z := true, aaa := 1 } 1 (.reg 2)) := by decide
/-- As above with L'L=01, X̄=0 (register 18), b=0. -/
theorem test_decode_evex256 : decode .long64 [0b01100010, 0b10110001, 0b11111101, 0b00101000, 0b01011010, 0b11001010] =
    .instr (.vcvtpd2psEvex256 [] { plainEvex with x := true } 1 (.reg 2)) := by decide
/-- As above with L'L=10, b=1, ModRM 01 001 000 and disp8: a broadcast. -/
theorem test_decode_evex512 : decode .long64 [0b01100010, 0b11110001, 0b11111101, 0b01011000, 0b01011010, 0b01001000, 0x01] =
    .instr (.vcvtpd2psEvex512 [] plainEvex false 1 (.bcst (.base 0 (.disp8 1)))) := by decide
/-- As above with rc=01, b=1, ModRM 11 001 010: embedded rounding down. -/
theorem test_decode_evex512_er : decode .long64 [0b01100010, 0b11110001, 0b11111101, 0b00111000, 0b01011010, 0b11001010] =
    .instr (.vcvtpd2psEvex512Er [] plainEvex .down 1 2) := by decide
/-- 32-bit mode, 67 and ModRM 00 001 110 with disp16. -/
theorem test_decode_16_bit : decode .prot32 [0x66, 0x67, 0x0F, 0x5A, 0b00001110, 0x34, 0x12] =
    .instr (.cvtpd2ps [.opSize, .addrSize] 1 (.mem (.dispOnly16 0x1234))) := by decide
/-- A table word: F-EVEX512, bytes 62 F1 FD 48 5A 00 with bit 0 the lowest of 62. -/
theorem test_table_word : decodeTableWord 48 0x005A48FDF162 =
    some (.vcvtpd2psEvex512 [] plainEvex false 0 (.mem (.base 0 .none))) := by decide

/-! ### Single steps -/

/-- 64-bit mode with every form enabled, `MXCSR = 1F80H`, all ones in register 1, `RAX = 2000H`, and the
program counter at 1000H. -/
def ready64 : State :=
  State.setZmm
    { State.reset with
      cr0 := 0x60000011, cr4 := 0x40600, xcr0 := 0xE7, efer := 0x500, csL := true, rip := 0x1000
      gpr := State.reset.gpr.set 0 0x2000 } 1 (BitVec.allOnes 512)

/-- The eight source lanes of 43_vcvtpd2ps_evex.md, section 4. -/
def lanes8 : Zmm :=
  0x8000000000000000#64 ++ 0x3FB999999999999A#64 ++ 0xB66244CE242C5561#64 ++ 0x7FF0000000000001#64 ++
    0x48078287F49C4A1D#64 ++ 0x3FD5555555555555#64 ++ 0x4000000000000000#64 ++ 0x3FF0000000000000#64

/-- 0.1 in the eight bytes from 2000H on, four times (R177). -/
def tenths : Memory :=
  (List.range 32).map (fun t => (0x2000 + t, [0x9A, 0x99, 0x99, 0x99, 0x99, 0x99, 0xB9, 0x3F].getD (t % 8) 0))

/-- What a test looks at: register 1, MXCSR, the pc and the pending vector. -/
def seen : Host.Outcome State Fault Refusal → Option (Zmm × BitVec 32 × Word64 × Option (BitVec 8))
  | .next t => some (t.zmmReg 1, t.mxcsr, t.rip, t.raised.map (·.vector))
  | _ => none

/-- R142: the upper bits of register 1 are kept. -/
theorem test_sse_example : seen (exec (.cvtpd2ps [.opSize] 1 (.reg 2))
    (ready64.setZmm 2 0xC0000000000000003FF8000000000000#512)) =
    some (BitVec.allOnes 384 ++ 0x0000000000000000C00000003FC00000#128, 0x1F80, 0x1004, none) := by decide +kernel

/-- A misaligned operand is `#GP(0)` (R199). -/
theorem test_sse_misaligned : seen (exec (.cvtpd2ps [.opSize] 1 (.mem (.base 0 (.disp8 8))))
    { ready64 with mem := tenths }) = some (BitVec.allOnes 512, 0x1F80, 0x1000, some 13) := by decide +kernel

/-- R150 on the lanes of R142: bits 511:64 zeroed. -/
theorem test_vex128_c5 : seen (exec (.vcvtpd2psVex128C5 [] ⟨false, 15⟩ 1 (.reg 2))
    (ready64.setZmm 2 0xC0000000000000003FF8000000000000#512)) =
    some (0xC00000003FC00000#512, 0x1F80, 0x1004, none) := by decide +kernel

/-- The 3-byte spelling is one byte longer and ignores `W` (R86). -/
theorem test_vex128_c4 : seen (exec (.vcvtpd2psVex128C4 [] ⟨false, false, false, true, 15⟩ 1 (.reg 2))
    (ready64.setZmm 2 0xC0000000000000003FF8000000000000#512)) =
    some (0xC00000003FC00000#512, 0x1F80, 0x1005, none) := by decide +kernel

/-- R154 with `MXCSR = 1F80H`. -/
theorem test_vex256_c5 : seen (exec (.vcvtpd2psVex256C5 [] ⟨false, 15⟩ 1 (.reg 2))
    (ready64.setZmm 2 ((0x4010000000000000#64 ++ 0x3FB999999999999A#64 ++ 0xC000000000000000#64 ++
      0x3FF8000000000000#64).setWidth 512))) =
    some (0x408000003DCCCCCDC00000003FC00000#512, 0x1FA0, 0x1004, none) := by decide +kernel

/-- R154 with `RC = 11b`, in the 3-byte spelling. R154 says that lane 1 is 3DCCCCCCH; its own start state
has 0.1 in lane 2 and the exact -2.0 in lane 1, so lane 2 is meant (DEDUCED, log 28). -/
theorem test_vex256_c4 : seen (exec (.vcvtpd2psVex256C4 [] ⟨false, false, false, false, 15⟩ 1 (.reg 2))
    (State.setZmm { ready64 with mxcsr := 0x7F80 } 2
      ((0x4010000000000000#64 ++ 0x3FB999999999999A#64 ++ 0xC000000000000000#64 ++ 0x3FF8000000000000#64).setWidth 512))) =
    some (0x408000003DCCCCCCC00000003FC00000#512, 0x7FA0, 0x1005, none) := by decide +kernel

/-- R177, `{1to2}`. -/
theorem test_evex128_broadcast : seen (exec (.vcvtpd2psEvex128 [] plainEvex 1 (.bcst (.base 0 .none)))
    { ready64 with mem := tenths }) = some (0x3DCCCCCD3DCCCCCD#512, 0x1FA0, 0x1006, none) := by decide +kernel

/-- R173, first corner case: `dst = src` with merging, `k1 = 0101b`. -/
theorem test_evex256_merge_in_place : seen (exec (.vcvtpd2psEvex256 [] { plainEvex with aaa := 1 } 1 (.reg 1))
    (State.setZmm { ready64 with k := ready64.k.set 1 0x5 } 1
      ((0x4010000000000000#64 ++ 0x3FB9000000000000#64 ++ 0xC000000000000000#64 ++ 0x3FF8000000000000#64).setWidth 512))) =
    some (0xC00000003DC800003FF800003FC00000#512, 0x1F80, 0x1006, none) := by decide +kernel

/-- R174: the mask A5H hides an overflow and a signaling NaN. -/
theorem test_evex512_masked : seen (exec (.vcvtpd2psEvex512 [] { plainEvex with aaa := 1 } false 1 (.reg 2))
    (State.setZmm { ready64 with k := ready64.k.set 1 0xA5 } 2 lanes8)) =
    some (0x80000000FFFFFFFF80000000FFFFFFFFFFFFFFFF3EAAAAABFFFFFFFF3F800000#512, 0x1FB0, 0x1006, none) := by
  decide +kernel

/-- R175 with `IM = 0`: nothing is written and only `IE` is recorded. -/
theorem test_evex512_trap : seen (exec (.vcvtpd2psEvex512 [] plainEvex false 1 (.reg 2))
    (State.setZmm { ready64 with mxcsr := 0x1F00 } 2 lanes8)) =
    some (BitVec.allOnes 512, 0x1F01, 0x1000, some 19) := by decide +kernel

/-- R176: `{rz-sae}` with every exception unmasked. -/
theorem test_evex512_er : seen (exec (.vcvtpd2psEvex512Er [] plainEvex .zero 1 2)
    (State.setZmm { ready64 with mxcsr := 0 } 2 lanes8)) =
    some (0x800000003DCCCCCC800000007FC000007F7FFFFF3EAAAAAA400000003F800000#512, 0, 0x1006, none) := by
  decide +kernel

/-- R176, `{rd-sae}`: element 5 is 80000001H. -/
theorem test_evex512_er_down : seen (exec (.vcvtpd2psEvex512Er [] plainEvex .down 1 2)
    (State.setZmm { ready64 with mxcsr := 0 } 2 lanes8)) =
    some (0x800000003DCCCCCC800000017FC000007F7FFFFF3EAAAAAA400000003F800000#512, 0, 0x1006, none) := by
  decide +kernel

/-- The first step after a word is placed at reset raises `#UD`: `CR4` is 0 (R30). -/
theorem test_step_from_reset : seen (step (State.reset.withFetchWord 48 0x005A48FDF162)) =
    some (0, 0x1F80, 0xFFF0, some 6) := by decide +kernel

/-! ### Witnesses: for each statement with hypotheses, a state and operands that meet them -/

/-- `State.ready` as a check. -/
theorem ready_of_check {s : State} {i : Instr}
    (h : (decide (i.length ≤ 15) && s.enabled i && !s.cr0[3]) = true) : s.ready i := by
  simp only [Bool.and_eq_true, decide_eq_true_eq, Bool.not_eq_true'] at h
  exact ⟨h.1.1, h.1.2, h.2⟩

/-- Every detected condition is masked, as a check. -/
theorem quiet_of_check {s : State} {i : Instr} (h : decide (s.unmasked (s.preSet i ||| s.postSet i) = 0) = true) :
    s.quiet i := by
  simpa [State.quiet] using h

/-- `State.operandAccessible` and `State.operandOrdinary` as checks. -/
def accessibleCheck (s : State) (i : Instr) (p : MemOperand) : Bool :=
  (!p.align16 || decide (p.lin.toNat % 16 = 0)) &&
    (List.range p.elems).all (fun j => !s.needsElement i p j || (s.segmentOk p.lin j && s.pageOk p.lin j)) &&
    !s.alignmentChecked i p

def ordinaryCheck (s : State) (i : Instr) (p : MemOperand) : Bool :=
  (List.range p.elems).all (fun j => (p.bcst && !s.anyActive i) || s.ordinary p.lin j)

theorem accessible_of_check {s : State} {i : Instr} {p : MemOperand} (h : accessibleCheck s i p = true) :
    s.operandAccessible i p := by
  simp only [accessibleCheck, Bool.and_eq_true, Bool.or_eq_true, Bool.not_eq_true', decide_eq_true_eq,
    List.all_eq_true, List.mem_range] at h
  refine ⟨fun ha => ?_, fun j hj => ?_, h.2⟩
  · rcases h.1.1 with hn | hn
    · rw [hn] at ha; cases ha
    · exact hn
  · have hlt : j < p.elems := by
      simp only [State.needsElement, Bool.and_eq_true, decide_eq_true_eq] at hj
      exact hj.1
    rcases h.1.2 j hlt with hn | hn
    · rw [hn] at hj; cases hj
    · exact hn

theorem ordinary_of_check {s : State} {i : Instr} {p : MemOperand} (h : ordinaryCheck s i p = true) :
    s.operandOrdinary i p := by
  simp only [ordinaryCheck, Bool.and_eq_true, Bool.or_eq_true, Bool.not_eq_true', List.all_eq_true,
    List.mem_range] at h
  intro j hj hb
  rcases h j hj with hn | hn
  · rw [hb hn.1] at hn
    cases hn.2
  · exact hn

/-- `State.sourceReadable` as a check. -/
def readableCheck (s : State) (i : Instr) : Bool :=
  match s.memOperand i with
  | none => true
  | some p => accessibleCheck s i p && ordinaryCheck s i p

theorem readable_of_check {s : State} {i : Instr} (h : readableCheck s i = true) : s.sourceReadable i := by
  intro p hp
  rw [readableCheck, hp] at h
  simp only [Bool.and_eq_true] at h
  exact ⟨accessible_of_check h.1, ordinary_of_check h.2⟩

/-- `State.fetchable` as a check. -/
theorem fetchable_of_check {s : State} {n : Nat} (h : s.nonCanonicalFetch n = false) : s.fetchable n :=
  (s.nonCanonicalFetch_eq_false_iff n).mp h

theorem not_fetchable_of_check {s : State} {n : Nat} (h : s.nonCanonicalFetch n = true) : ¬ s.fetchable n := by
  rw [← State.nonCanonicalFetch_eq_false_iff, h]
  decide

/-- A next state of an execution with a property, as a check. -/
theorem next_of_check {o : Host.Outcome State Fault Refusal} (P : State → Bool)
    (h : (match o with | .next t => P t | .fault _ => false | .refused _ => false) = true) :
    ∃ t, o = .next t ∧ P t = true := by
  cases o with
  | next t => exact ⟨t, rfl, h⟩
  | fault r => cases h
  | refused r => cases h

/-- The sample instructions: one per constructor, register form. -/
def sampleReg : List Instr :=
  [.cvtpd2ps [.opSize] 1 (.reg 2), .vcvtpd2psVex128C5 [] ⟨false, 15⟩ 1 (.reg 2),
    .vcvtpd2psVex128C4 [] ⟨false, false, false, false, 15⟩ 1 (.reg 2), .vcvtpd2psVex256C5 [] ⟨false, 15⟩ 1 (.reg 2),
    .vcvtpd2psVex256C4 [] ⟨false, false, false, true, 15⟩ 1 (.reg 2), .vcvtpd2psEvex128 [] plainEvex 1 (.reg 2),
    .vcvtpd2psEvex256 [] { plainEvex with aaa := 1 } 1 (.reg 2), .vcvtpd2psEvex512 [] plainEvex false 1 (.reg 2),
    .vcvtpd2psEvex512Er [] plainEvex .up 1 2]

/-- The memory forms of VEX and EVEX, the last lanes of F-EVEX512 masked off beyond the page's end. -/
def sampleMem : List Instr :=
  [.vcvtpd2psVex128C5 [] ⟨false, 15⟩ 1 (.mem (.base 0 (.disp8 3))),
    .vcvtpd2psVex128C4 [] ⟨false, false, false, false, 15⟩ 1 (.mem (.base 0 (.disp8 3))),
    .vcvtpd2psVex256C5 [] ⟨false, 15⟩ 1 (.mem (.base 0 .none)),
    .vcvtpd2psVex256C4 [] ⟨false, false, false, true, 15⟩ 1 (.mem (.base 0 .none)),
    .vcvtpd2psEvex128 [] plainEvex 1 (.mem (.base 0 (.disp8 1))),
    .vcvtpd2psEvex256 [] plainEvex 1 (.mem (.base 0 (.disp8 0))),
    .vcvtpd2psEvex512 [] { plainEvex with aaa := 1 } false 1 (.mem (.base 0 .none)),
    .vcvtpd2psEvex128 [] plainEvex 1 (.bcst (.base 0 (.disp8 3))),
    .vcvtpd2psEvex256 [] plainEvex 1 (.bcst (.base 0 (.disp8 3))),
    .vcvtpd2psEvex512 [] { plainEvex with aaa := 1 } false 1 (.bcst (.base 0 (.disp8 3)))]

/-- A program counter where the bytes of an instruction stand, with everything masked. -/
def loaded (i : Instr) : State := ready64.loadAtRip (encode i)

/-- A signaling NaN in register 2, with its exception unmasked. -/
def invalidOperand : State := State.setZmm { ready64 with mxcsr := 0x1F00 } 2 0x7FF0000000000001

/-- 1e39 in register 2, with overflow unmasked and the rest masked. -/
def overflowOperand : State := State.setZmm { ready64 with mxcsr := 0x1B80 } 2 0x48078287F49C4A1D

/-- A state with one faulting region at the operand. -/
def withRegion (kind : RegionKind) (base : Nat) : State :=
  { ready64 with mem := tenths, cfg := { Config.taken with memFault := [⟨base, 4096, kind⟩] } }

/-- `RAX = 2001H`, alignment checking on at CPL 3. -/
def checked : State :=
  { ready64 with
    mem := tenths, gpr := ready64.gpr.set 0 0x2001, cr0 := 0x60040011, rflags := 0x40002
    segs := { ready64.segs with cs := { selector := 0x33, base := 0 } } }

theorem witness_DecodeOfEncode : sampleReg.all (Instr.encodable .long64) = true := by decide
theorem witness_EncodeOfDecode : decode .real [0xC5, 0xF9, 0x5A, 0xCA, 0x90] =
    .instr (.vcvtpd2psVex128C5 [] ⟨false, 15⟩ 1 (.reg 2)) := by decide
theorem witness_NeighboursRefused : prefixesFit .long64 [.opSize, .rex true false false false] = true ∧
    Prefix.repne ∈ [Prefix.repne, .opSize] ∧ Prefix.opSize ∉ [Prefix.rep] ∧
    (0xFA : Byte).extractLsb' 0 2 ≠ 0b01 ∧ (0x7C : Byte).extractLsb' 0 2 ≠ 0b01 ∧
    ready64.raised = none ∧ ready64.fetchable 1 ∧ decode ready64.mode ready64.fetchBytes = .notThis .otherOpcode :=
  ⟨by decide +kernel, by decide +kernel, by decide +kernel, by decide +kernel, by decide +kernel, rfl,
    fetchable_of_check (by decide +kernel), by decide +kernel⟩
theorem witness_StepRunsDecoded (i : Instr) (h : i ∈ sampleReg) : (loaded i).raised = none ∧
    decode (loaded i).mode (loaded i).fetchBytes = .instr i ∧ (loaded i).fetchable i.length := by
  have key : sampleReg.all (fun i => decide ((loaded i).raised = none) &&
      decide (decode (loaded i).mode (loaded i).fetchBytes = .instr i) &&
      !(loaded i).nonCanonicalFetch i.length) = true := by decide +kernel
  have hi := List.all_eq_true.mp key i h
  simp only [Bool.and_eq_true, decide_eq_true_eq, Bool.not_eq_true'] at hi
  exact ⟨hi.1.1, hi.1.2, fetchable_of_check hi.2⟩
/-- The last byte of the instruction is the first that is not canonical; and the pc itself. -/
theorem witness_StepRunsDecoded_fetch :
    (∃ s, s = State.loadAtRip { ready64 with rip := 0x00007FFFFFFFFFFD } [0x66, 0x0F, 0x5A, 0xCA] ∧ s.raised = none ∧
      decode s.mode s.fetchBytes = .instr (.cvtpd2ps [.opSize] 1 (.reg 2)) ∧ s.fetchable 3 ∧ ¬ s.fetchable 4) ∧
    (∃ s, s = { ready64 with rip := 0x0000800000000000 } ∧ s.raised = none ∧ ¬ s.fetchable 1) :=
  ⟨⟨_, rfl, rfl, by decide +kernel, fetchable_of_check (by decide +kernel), not_fetchable_of_check (by decide +kernel)⟩,
    ⟨_, rfl, rfl, not_fetchable_of_check (by decide +kernel)⟩⟩
/-- The branches of the boundary: single-step, and an armed breakpoint with a memory operand. -/
theorem witness_StepRunsDecoded_debug :
    (∃ t, step { loaded (.cvtpd2ps [.opSize] 1 (.reg 2)) with rflags := 0x102 } = .next t ∧
      (decide (t.raised.map (fun f => (f.vector, f.errorCode)) = some (1, none)) &&
        decide (t.rip = ready64.rip + 4)) = true) ∧
    (∃ t, exec (.cvtpd2ps [.opSize] 1 (.mem (.base 0 .none))) { loaded (.cvtpd2ps [.opSize] 1 (.mem (.base 0 .none)))
        with dr7 := 0x401 } = .next t ∧
      (decide (t.raised = none) && decide (t.dr7.extractLsb' 0 8 ≠ 0) &&
        ((loaded (.cvtpd2ps [.opSize] 1 (.mem (.base 0 .none)))).memOperand
          (.cvtpd2ps [.opSize] 1 (.mem (.base 0 .none)))).isSome) = true) :=
  ⟨next_of_check _ (by decide +kernel), next_of_check _ (by decide +kernel)⟩
theorem witness_FetchedEncodingDecodes : sampleReg.all (fun i =>
    i.encodable (loaded i).mode && decide (i.length ≤ 15) && (List.range i.length).all (fun t =>
      decide ((encode i)[t]? = some (Memory.readByte (loaded i).mem ((loaded i).fetchAddr t).toNat)))) = true := by
  decide +kernel
theorem witness_LoadedWordIsFetched : Memory.wf State.reset.mem = true ∧ State.reset.enterLong64.fetchable 15 :=
  ⟨by decide, fetchable_of_check (by decide +kernel)⟩
theorem witness_TooLongRaisesGp :
    15 < (Instr.cvtpd2ps (List.replicate 13 .opSize) 1 (.reg 2)).length ∧
    (ready64.loadAtRip (List.replicate 15 0x66)).raised = none ∧
    decode (ready64.loadAtRip (List.replicate 15 0x66)).mode (ready64.loadAtRip (List.replicate 15 0x66)).fetchBytes =
      .truncated := by decide +kernel
/-- The register forms and the memory forms. -/
def sampleAll : List Instr := sampleReg ++ .cvtpd2ps [.opSize] 1 (.mem (.base 0 .none)) :: sampleMem

theorem witness_LaunchedInstructionRuns (i : Instr) (h : i ∈ sampleAll) :
    (loaded i).raised = none ∧ i.encodable (loaded i).mode = true ∧
    (∀ t < i.length, (encode i)[t]? = some (Memory.readByte (loaded i).mem ((loaded i).fetchAddr t).toNat)) ∧
    (loaded i).fetchable i.length ∧
    (loaded i).ready i ∧ (loaded i).sourceReadable i ∧ (loaded i).mxcsr.extractLsb' 7 6 = 63 ∧
    (loaded i).rflags[8] = false ∧ ((loaded i).memOperand i = none ∨ (loaded i).dr7.extractLsb' 0 8 = 0) := by
  have key : sampleAll.all (fun i => decide ((loaded i).raised = none) && i.encodable (loaded i).mode &&
      (List.range i.length).all (fun t =>
        decide ((encode i)[t]? = some (Memory.readByte (loaded i).mem ((loaded i).fetchAddr t).toNat))) &&
      !(loaded i).nonCanonicalFetch i.length &&
      (decide (i.length ≤ 15) && (loaded i).enabled i && !(loaded i).cr0[3]) && readableCheck (loaded i) i &&
      decide ((loaded i).mxcsr.extractLsb' 7 6 = 63) && !(loaded i).rflags[8] &&
      decide ((loaded i).dr7.extractLsb' 0 8 = 0)) = true := by decide +kernel
  have hi := List.all_eq_true.mp key i h
  simp only [Bool.and_eq_true, decide_eq_true_eq, List.all_eq_true, List.mem_range, Bool.not_eq_true'] at hi
  obtain ⟨⟨⟨⟨⟨⟨⟨⟨h1, h2⟩, h3⟩, hf⟩, ⟨h4, h5⟩, h6⟩, h7⟩, h8⟩, h9⟩, h10⟩ := hi
  exact ⟨h1, h2, h3, fetchable_of_check hf, ⟨h4, h5, h6⟩, readable_of_check h7, h8, h9, .inr h10⟩

/-! Completion: every clause of the register forms, at lanes that are inexact. -/

/-- Lanes that detect only masked conditions. -/
def lanesState : State := State.setZmm { ready64 with k := ready64.k.set 1 0xFF } 2 lanes8

theorem witness_SseRegisterCompletes : lanesState.ready (.cvtpd2ps [.opSize] 1 (.reg 2)) ∧
    lanesState.quiet (.cvtpd2ps [.opSize] 1 (.reg 2)) :=
  ⟨ready_of_check (by decide +kernel), quiet_of_check (by decide +kernel)⟩
theorem witness_register_forms (i : Instr) (h : i ∈ sampleReg) : lanesState.ready i ∧ lanesState.quiet i := by
  have key : sampleReg.all (fun i => (decide (i.length ≤ 15) && lanesState.enabled i && !lanesState.cr0[3]) &&
      decide (lanesState.unmasked (lanesState.preSet i ||| lanesState.postSet i) = 0)) = true := by decide +kernel
  have hi := List.all_eq_true.mp key i h
  rw [Bool.and_eq_true] at hi
  exact ⟨ready_of_check hi.1, quiet_of_check hi.2⟩
theorem witness_VexRegisterCompletes :
    (∃ i, i = Instr.vcvtpd2psVex128C5 [] ⟨false, 15⟩ 1 (.reg 2) ∧ lanesState.ready i ∧ lanesState.quiet i) ∧
    (∃ i, i = Instr.vcvtpd2psVex128C4 [] ⟨false, false, false, false, 15⟩ 1 (.reg 2) ∧ lanesState.ready i ∧ lanesState.quiet i) ∧
    (∃ i, i = Instr.vcvtpd2psVex256C5 [] ⟨false, 15⟩ 1 (.reg 2) ∧ lanesState.ready i ∧ lanesState.quiet i) ∧
    (∃ i, i = Instr.vcvtpd2psVex256C4 [] ⟨false, false, false, true, 15⟩ 1 (.reg 2) ∧ lanesState.ready i ∧ lanesState.quiet i) :=
  ⟨⟨_, rfl, witness_register_forms _ (by decide)⟩, ⟨_, rfl, witness_register_forms _ (by decide)⟩,
    ⟨_, rfl, witness_register_forms _ (by decide)⟩, ⟨_, rfl, witness_register_forms _ (by decide)⟩⟩
theorem witness_EvexRegisterCompletes :
    (∃ i, i = Instr.vcvtpd2psEvex128 [] plainEvex 1 (.reg 2) ∧ lanesState.ready i ∧ lanesState.quiet i) ∧
    (∃ i, i = Instr.vcvtpd2psEvex256 [] { plainEvex with aaa := 1 } 1 (.reg 2) ∧ lanesState.ready i ∧ lanesState.quiet i) ∧
    (∃ i, i = Instr.vcvtpd2psEvex512 [] plainEvex false 1 (.reg 2) ∧ lanesState.ready i ∧ lanesState.quiet i) :=
  ⟨⟨_, rfl, witness_register_forms _ (by decide)⟩, ⟨_, rfl, witness_register_forms _ (by decide)⟩,
    ⟨_, rfl, witness_register_forms _ (by decide)⟩⟩
theorem witness_EvexEmbeddedRoundingCompletes : lanesState.ready (.vcvtpd2psEvex512Er [] plainEvex .up 1 2) :=
  ready_of_check (by decide +kernel)

/-- A memory operand at 2000H whose second page is not present: a masked-off element lies there. -/
def edge : State :=
  { withRegion (.page false true true 0) 0x2020 with k := ready64.k.set 1 0x0F }

theorem witness_SseMemoryCompletes : edge.ready (.cvtpd2ps [.opSize] 1 (.mem (.base 0 .none))) ∧
    edge.sourceReadable (.cvtpd2ps [.opSize] 1 (.mem (.base 0 .none))) ∧
    edge.quiet (.cvtpd2ps [.opSize] 1 (.mem (.base 0 .none))) :=
  ⟨ready_of_check (by decide +kernel), readable_of_check (by decide +kernel), quiet_of_check (by decide +kernel)⟩

theorem witness_memory_forms (i : Instr) (h : i ∈ sampleMem) :
    edge.ready i ∧ edge.sourceReadable i ∧ edge.quiet i := by
  have key : sampleMem.all (fun i => (decide (i.length ≤ 15) && edge.enabled i && !edge.cr0[3]) &&
      readableCheck edge i && decide (edge.unmasked (edge.preSet i ||| edge.postSet i) = 0)) = true := by decide +kernel
  have hi := List.all_eq_true.mp key i h
  rw [Bool.and_eq_true, Bool.and_eq_true] at hi
  exact ⟨ready_of_check hi.1.1, readable_of_check hi.1.2, quiet_of_check hi.2⟩
theorem witness_VexMemoryCompletes :
    (∃ i, i = Instr.vcvtpd2psVex128C5 [] ⟨false, 15⟩ 1 (.mem (.base 0 (.disp8 3))) ∧
      edge.ready i ∧ edge.sourceReadable i ∧ edge.quiet i) ∧
    (∃ i, i = Instr.vcvtpd2psVex128C4 [] ⟨false, false, false, false, 15⟩ 1 (.mem (.base 0 (.disp8 3))) ∧
      edge.ready i ∧ edge.sourceReadable i ∧ edge.quiet i) ∧
    (∃ i, i = Instr.vcvtpd2psVex256C5 [] ⟨false, 15⟩ 1 (.mem (.base 0 .none)) ∧
      edge.ready i ∧ edge.sourceReadable i ∧ edge.quiet i) ∧
    (∃ i, i = Instr.vcvtpd2psVex256C4 [] ⟨false, false, false, true, 15⟩ 1 (.mem (.base 0 .none)) ∧
      edge.ready i ∧ edge.sourceReadable i ∧ edge.quiet i) :=
  ⟨⟨_, rfl, witness_memory_forms _ (by decide)⟩, ⟨_, rfl, witness_memory_forms _ (by decide)⟩,
    ⟨_, rfl, witness_memory_forms _ (by decide)⟩, ⟨_, rfl, witness_memory_forms _ (by decide)⟩⟩
theorem witness_EvexMemoryCompletes :
    (∃ i, i = Instr.vcvtpd2psEvex128 [] plainEvex 1 (.mem (.base 0 (.disp8 1))) ∧
      edge.ready i ∧ edge.sourceReadable i ∧ edge.quiet i) ∧
    (∃ i, i = Instr.vcvtpd2psEvex256 [] plainEvex 1 (.mem (.base 0 (.disp8 0))) ∧
      edge.ready i ∧ edge.sourceReadable i ∧ edge.quiet i) ∧
    (∃ i, i = Instr.vcvtpd2psEvex512 [] { plainEvex with aaa := 1 } false 1 (.mem (.base 0 .none)) ∧
      edge.ready i ∧ edge.sourceReadable i ∧ edge.quiet i) :=
  ⟨⟨_, rfl, witness_memory_forms _ (by decide)⟩, ⟨_, rfl, witness_memory_forms _ (by decide)⟩,
    ⟨_, rfl, witness_memory_forms _ (by decide)⟩⟩
theorem witness_EvexBroadcastCompletes :
    (∃ i, i = Instr.vcvtpd2psEvex128 [] plainEvex 1 (.bcst (.base 0 (.disp8 3))) ∧
      edge.ready i ∧ edge.sourceReadable i ∧ edge.quiet i) ∧
    (∃ i, i = Instr.vcvtpd2psEvex256 [] plainEvex 1 (.bcst (.base 0 (.disp8 3))) ∧
      edge.ready i ∧ edge.sourceReadable i ∧ edge.quiet i) ∧
    (∃ i, i = Instr.vcvtpd2psEvex512 [] { plainEvex with aaa := 1 } false 1 (.bcst (.base 0 (.disp8 3))) ∧
      edge.ready i ∧ edge.sourceReadable i ∧ edge.quiet i) :=
  ⟨⟨_, rfl, witness_memory_forms _ (by decide)⟩, ⟨_, rfl, witness_memory_forms _ (by decide)⟩,
    ⟨_, rfl, witness_memory_forms _ (by decide)⟩⟩

/-! Exceptions. -/

/-- The broadcast form used below. -/
def bcst8 : Instr := .vcvtpd2psEvex512 [] plainEvex false 1 (.bcst (.base 0 .none))
/-- The 32-byte VEX form used below, through `RAX`. -/
def load32 : Instr := .vcvtpd2psVex256C5 [] ⟨false, 15⟩ 1 (.mem (.base 0 .none))

theorem witness_UndefinedOpcodeRaised : sampleReg.all (fun i =>
    decide (i.length ≤ 15) && !State.reset.enabled i && !State.enabled { ready64 with cr4 := 0x400 } i) = true ∧
    ready64.enabled (.vcvtpd2psEvex512 [] plainEvex true 1 (.reg 2)) = false := by decide +kernel
theorem witness_DeviceNotAvailableRaised : sampleReg.all (fun i =>
    decide (i.length ≤ 15) && State.enabled { ready64 with cr0 := 0x60000019 } i &&
      State.ts { ready64 with cr0 := 0x60000019 }) = true := by decide +kernel
theorem witness_SseMisalignedRaised :
    ready64.ready (.cvtpd2ps [.opSize] 1 (.mem (.base 0 (.disp8 8)))) ∧
    (ready64.linear [.opSize] (rexExt [.opSize]) 1 (Instr.cvtpd2ps [.opSize] 1 (.mem (.base 0 (.disp8 8)))).length
      (.base 0 (.disp8 8))).toNat % 16 ≠ 0 :=
  ⟨ready_of_check (by decide +kernel), by decide +kernel⟩
/-- The last byte of the operand is the first that is not canonical; and a segment region. -/
theorem witness_SegmentFaultRaised :
    (∃ s p, s = { ready64 with gpr := ready64.gpr.set 0 0x00007FFFFFFFFFE1 } ∧ s.ready load32 ∧
      s.memOperand load32 = some p ∧ p.align16 = false ∧ s.needsElement load32 p 3 = true ∧ s.mode = .long64 ∧
      (s.byteAddr p.lin (8 * 3 + 7)).extractLsb' 47 17 ≠ 0 ∧
      (s.byteAddr p.lin (8 * 3 + 7)).extractLsb' 47 17 ≠ BitVec.allOnes 17) ∧
    (∃ s p, s = withRegion .segment 0x201F ∧ s.ready load32 ∧ s.memOperand load32 = some p ∧ p.align16 = false ∧
      s.needsElement load32 p 3 = true ∧ (⟨0x201F, 4096, .segment⟩ : Region) ∈ s.cfg.memFault ∧
      (s.byteAddr p.lin (8 * 3 + 7)).toNat = 0x201F) :=
  ⟨⟨_, _, rfl, ready_of_check (by decide +kernel), rfl, by decide +kernel⟩,
    ⟨_, _, rfl, ready_of_check (by decide +kernel), rfl, by decide +kernel⟩⟩
theorem witness_AlignmentCheckRaised :
    (∃ p, checked.ready bcst8 ∧ checked.memOperand bcst8 = some p ∧ p.bcst = true ∧ checked.anyActive bcst8 = true ∧
      checked.cr0[18] = true ∧ checked.rflags[18] = true ∧ checked.cpl = 3 ∧ p.lin.toNat % 8 ≠ 0 ∧
      checked.segmentOk p.lin 0 = true) ∧
    (checked.raised = none ∧ ∃ t, exec bcst8 checked = .next t ∧
      decide (t.raised.map (·.vector) = some 17) = true) :=
  ⟨⟨_, ready_of_check (by decide +kernel), rfl, by decide +kernel⟩, rfl, next_of_check _ (by decide +kernel)⟩
/-- The operand's last element straddles into the page that is not present. -/
theorem witness_PageFaultRaised :
    ∃ s p e, s = withRegion (.page false true true 0) 0x201C ∧ s.ready load32 ∧ s.memOperand load32 = some p ∧
      p.align16 = false ∧ (∀ j < 4, s.needsElement load32 p j = true → s.segmentOk p.lin j = true) ∧
      s.alignmentChecked load32 p = false ∧ s.needsElement load32 p 3 = true ∧
      s.pageFault (s.byteAddr p.lin (8 * 3 + 4)) = some e ∧
      (∀ j < 4, ∀ t < 8, 8 * j + t < 28 → s.pageFault (s.byteAddr p.lin (8 * j + t)) = none) :=
  ⟨_, _, .pf 0x201C 0, rfl, ready_of_check (by decide +kernel), rfl, by decide +kernel⟩
theorem witness_PreComputationTraps : ∃ i ∈ sampleReg, invalidOperand.ready i ∧ invalidOperand.sourceReadable i ∧
    erOf i = none ∧ invalidOperand.cfg.xmPolicy = .prePost ∧ invalidOperand.unmasked (invalidOperand.preSet i) ≠ 0 :=
  ⟨.cvtpd2ps [.opSize] 1 (.reg 2), by decide, ready_of_check (by decide +kernel),
    readable_of_check (by decide +kernel), by decide +kernel⟩
theorem witness_PostComputationTraps : ∃ i ∈ sampleReg, overflowOperand.ready i ∧ overflowOperand.sourceReadable i ∧
    erOf i = none ∧ overflowOperand.cfg.xmPolicy = .prePost ∧
    overflowOperand.unmasked (overflowOperand.preSet i) = 0 ∧ overflowOperand.unmasked (overflowOperand.postSet i) ≠ 0 :=
  ⟨.vcvtpd2psEvex512 [] plainEvex false 1 (.reg 2), by decide, ready_of_check (by decide +kernel),
    readable_of_check (by decide +kernel), by decide +kernel⟩
theorem witness_TrapFlagsBetween : ∃ s i, s = { overflowOperand with cfg := { Config.taken with xmPolicy := .anyBetween } } ∧
    i ∈ sampleReg ∧ s.ready i ∧ s.sourceReadable i ∧ erOf i = none ∧ s.cfg.xmPolicy = .anyBetween ∧
    s.unmasked (s.preSet i ||| s.postSet i) ≠ 0 :=
  ⟨_, .vcvtpd2psEvex128 [] plainEvex 1 (.reg 2), rfl, by decide, ready_of_check (by decide +kernel),
    readable_of_check (by decide +kernel), by decide +kernel⟩
theorem witness_DeviceMemoryRefused :
    ∃ s p, s = withRegion .device 0x201F ∧ s.ready load32 ∧ s.memOperand load32 = some p ∧
      s.operandAccessible load32 p ∧ 3 < p.elems ∧ p.bcst = false ∧ s.ordinary p.lin 3 = false :=
  ⟨_, _, rfl, ready_of_check (by decide +kernel), rfl, accessible_of_check (by decide +kernel), by decide +kernel⟩

/-! What an execution leaves. -/

/-- A page fault, and a SIMD trap that changes MXCSR. -/
theorem witness_ExceptionLeavesState :
    (∃ t, exec load32 (withRegion (.page true true true 0) 0x2000) = .next t ∧
      (decide (t.raised.map (·.vector) = some 14) && decide (t.cr2 = 0x2000)) = true) ∧
    (∃ t, exec (.cvtpd2ps [.opSize] 1 (.reg 2)) invalidOperand = .next t ∧
      (decide (t.raised.map (·.vector) = some 19) && decide (t.mxcsr ≠ invalidOperand.mxcsr)) = true) :=
  ⟨next_of_check _ (by decide +kernel), next_of_check _ (by decide +kernel)⟩
theorem witness_CompletionFrame : lanesState.raised = none ∧ ∃ t,
    exec (.vcvtpd2psEvex512 [] plainEvex false 1 (.reg 2)) lanesState = .next t ∧ t.raised.isNone = true :=
  ⟨rfl, next_of_check _ (by decide +kernel)⟩
theorem witness_MxcsrFlagsSticky : ∃ t, exec (.vcvtpd2psVex256C5 [] ⟨false, 15⟩ 1 (.reg 2)) lanesState = .next t ∧
    decide (t.mxcsr ≠ lanesState.mxcsr) = true :=
  next_of_check _ (by decide +kernel)
theorem witness_EvexUpperBitsZeroed : evexOf? (.vcvtpd2psEvex128 [] plainEvex 1 (.reg 2)) = some plainEvex ∧
    lanesState.raised = none ∧
    (∃ t, exec (.vcvtpd2psEvex128 [] plainEvex 1 (.reg 2)) lanesState = .next t ∧ t.raised.isNone = true) ∧
    (∃ t, exec (.vcvtpd2psEvex128 [] plainEvex 1 (.reg 2)) invalidOperand = .next t ∧ t.raised.isSome = true) :=
  ⟨rfl, rfl, next_of_check _ (by decide +kernel), next_of_check _ (by decide +kernel)⟩
/-- Lane 3 is masked off and differs. -/
theorem witness_InactiveLanesIrrelevant : ∃ s i v, s = { lanesState with k := ready64.k.set 1 0x7 } ∧
    i = Instr.vcvtpd2psEvex256 [] { plainEvex with aaa := 1 } 1 (.reg 2) ∧ srcOf s.mode i = some 2 ∧
    (2 : BitVec 5) ≠ dstOf s.mode i ∧ v ≠ s.zmmReg 2 ∧
    (∀ j < (vecLenOf i).kl, s.activeLane i j = true → elem64 v j = elem64 (s.zmmReg 2) j) ∧
    ∃ t, exec i s = .next t ∧ t.raised.isNone = true :=
  ⟨_, _, lanes8.setWidth 192 |>.setWidth 512, rfl, rfl, by decide +kernel, by decide +kernel, by decide +kernel,
    by decide +kernel, next_of_check _ (by decide +kernel)⟩
/-- Bit 4 of `K[1]` and all of `K[2]` differ; `KL` is 4. -/
theorem witness_OpmaskBitsRead : ∃ i k', i = Instr.vcvtpd2psEvex256 [] { plainEvex with aaa := 1 } 1 (.reg 2) ∧
    k' ≠ lanesState.k ∧ evexOf? i = some { plainEvex with aaa := 1 } ∧
    (∀ j < (vecLenOf i).kl, (State.kReg { lanesState with k := k' } 1).getLsbD j = (lanesState.kReg 1).getLsbD j) ∧
    ∃ t, exec i lanesState = .next t ∧ t.raised.isNone = true :=
  ⟨_, (ready64.k.set 1 0xEF).set 2 5, rfl, by decide +kernel, rfl, by decide +kernel, next_of_check _ (by decide +kernel)⟩
theorem witness_X87Untouched : X87.reset ≠ { X87.reset with fop := 1 } ∧
    ∃ t, exec load32 { ready64 with mem := tenths } = .next t ∧ t.raised.isNone = true :=
  ⟨by decide +kernel, next_of_check _ (by decide +kernel)⟩
theorem witness_RflagsNotUsed : (0x8D7 : Word64)[17] = ready64.rflags[17] ∧ (0x8D7 : Word64)[18] = ready64.rflags[18] ∧
    ready64.raised = none ∧ ∃ t, exec bcst8 { ready64 with mem := tenths } = .next t ∧ t.raised.isNone = true :=
  ⟨by decide +kernel, by decide +kernel, rfl, next_of_check _ (by decide +kernel)⟩
theorem witness_PrivilegeLevelIrrelevant : lanesState.raised = none ∧
    lanesState.memOperand (.cvtpd2ps [.opSize] 1 (.reg 2)) = none ∧
    ∃ t, exec (.cvtpd2ps [.opSize] 1 (.reg 2)) lanesState = .next t ∧ t.raised.isNone = true :=
  ⟨rfl, rfl, next_of_check _ (by decide +kernel)⟩
/-- No byte of the operand is present; bit 8 of the mask, above `KL`, is 1. -/
theorem witness_AllZeroMaskCompletes : ∃ s i e, s = { withRegion (.page false true true 0) 0x2000 with k := ready64.k.set 1 0x100 } ∧
    i = Instr.vcvtpd2psEvex512 [] e false 1 (.mem (.base 0 .none)) ∧ evexOf? i = some e ∧ s.ready i ∧
    (∀ j < (vecLenOf i).kl, s.activeLane i j = false) ∧ s.cfg.evexFaultSuppression = true ∧
    ∃ p, s.memOperand i = some p ∧ s.operandOrdinary i p :=
  ⟨_, _, { plainEvex with aaa := 1, z := true }, rfl, rfl, rfl, ready_of_check (by decide +kernel), by decide +kernel,
    by decide +kernel, _, rfl, ordinary_of_check (by decide +kernel)⟩
theorem witness_VexSpellingsAgree : lanesState.raised = none ∧
    (∃ t, exec (.vcvtpd2psVex128C5 [.seg .gs, .addrSize, .addrSize, .addrSize, .addrSize] ⟨false, 15⟩ 1 (.reg 2)) lanesState = .next t ∧
      t.raised.isNone = true) ∧
    (∃ t, exec (.vcvtpd2psVex256C5 [] ⟨false, 15⟩ 1 (.mem (.base 0 .none))) { ready64 with mem := tenths } = .next t ∧
      t.raised.isNone = true) :=
  ⟨rfl, next_of_check _ (by decide +kernel), next_of_check _ (by decide +kernel)⟩
theorem witness_IretRestores : ready64.raised = none := rfl
theorem witness_RestartFaultsAgain : invalidOperand.raised = none ∧ invalidOperand.cfg.xmPolicy = .prePost ∧
    ∃ t, exec (.cvtpd2ps [.opSize] 1 (.reg 2)) invalidOperand = .next t ∧ t.raised.isSome = true :=
  ⟨rfl, rfl, next_of_check _ (by decide +kernel)⟩
theorem witness_RaiseRecordsFrame : ready64.mode = .long64 := by decide +kernel
theorem witness_MemReadLittleEndian : (64 : Nat) ≤ 64 ∧ 8 * 7 + 8 ≤ 64 ∧ 63 < 64 := by decide
theorem witness_UndeliveredExceptionIsTerminal : (ready64.raise .nm).raised = some (ready64.frame .nm) := rfl

/-! The invariant, memory operands, the conversion. -/

theorem inv_loaded : (loaded (.vcvtpd2psEvex128 [] plainEvex 1 (.reg 2))).inv := by
  unfold State.inv
  refine ⟨by decide +kernel, by decide +kernel, by decide +kernel, fun f hf => ?_, fun h => ?_⟩
  · exact absurd (show (none : Option Raised) = some f from hf) (by simp)
  · exact absurd (show (loaded (.vcvtpd2psEvex128 [] plainEvex 1 (.reg 2))).mode = .long64 by decide +kernel) h
theorem witness_StepKeepsInvariant : (loaded (.vcvtpd2psEvex128 [] plainEvex 1 (.reg 2))).inv ∧
    ∃ t, step (loaded (.vcvtpd2psEvex128 [] plainEvex 1 (.reg 2))) = .next t ∧ t.raised.isNone = true :=
  ⟨inv_loaded, next_of_check _ (by decide +kernel)⟩
/-- Segment bases of FS and DS. -/
def based : State :=
  { ready64 with segs := { ready64.segs with fs := { selector := 0, base := 0x100000 }
                                             ds := { selector := 0, base := 0x40000 } } }

/-- R49, R62, by hand: a DS override is ignored in 64-bit mode and an FS one counts; 2000H + 3. -/
theorem test_linear_long64 :
    based.linear [.seg .fs, .seg .ds] ⟨false, false, false⟩ 1 5 (.base 0 (.disp8 3)) = 0x102003 ∧
    based.linear [.seg .ds] ⟨false, false, false⟩ 1 5 (.base 0 (.disp8 3)) = 0x2003 := by decide +kernel
/-- In compatibility mode the DS override replaces the default, and its base counts. -/
theorem test_linear_compat : State.linear { based with csL := false } [.seg .fs, .seg .ds] ⟨false, false, false⟩ 1 5
    (.base 0 (.disp8 3)) = 0x42003 := by decide +kernel

theorem witness_EffectiveAddressLong64 : ready64.mode = .long64 ∧ State.mode { ready64 with csL := false } ≠ .long64 ∧
    [Prefix.seg .fs, .seg .ds] = [] ++ .seg .fs :: [.seg .ds] ∧ Prefix.seg .fs ∉ [Prefix.seg .ds] ∧
    Prefix.seg .gs ∉ [Prefix.seg .ds] ∧ AddrSize.a32 ≠ .a16 ∧
    (BitVec.ofBool true ++ (4 : BitVec 3) : BitVec 4) ≠ 4 ∧ (BitVec.ofBool false ++ (4 : BitVec 3) : BitVec 4) = 4 := by
  decide +kernel
theorem witness_EffectiveAddress16 : State.mode { ready64 with csL := false } ≠ .long64 ∧
    [Prefix.seg .fs, .seg .ds, .addrSize] = [.seg .fs] ++ .seg .ds :: [.addrSize] ∧
    (∀ q, Prefix.seg q ∉ [Prefix.addrSize]) := by
  refine ⟨by decide +kernel, rfl, fun q => by simp⟩
theorem witness_RoundIntRounds : ¬ 2 ^ 1 ∣ 3 ∧ 2 ^ 1 ∣ 4 ∧ roundsAway .down true = true ∧
    Rounding.zero ≠ .nearest ∧ roundsAway .zero true = false ∧
    |2 * (((roundInt 3 (-(1 : Int)) .nearest false).1 : Int) * 2 ^ 1) - 2 * 3| = 2 ^ 1 := by decide +kernel
theorem witness_NanConverted : (0x7FF0000000000001 : Word64).extractLsb' 52 11 = 2047 ∧
    (0x7FF0000000000001 : Word64).extractLsb' 0 52 ≠ 0 := by decide +kernel
/-- Round to nearest, `DAZ = FTZ = 0`, everything masked. -/
def nearestEnv : CvtEnv := ⟨.nearest, false, false, true, true, true⟩
theorem witness_DenormalConverted : (0x800FFFFFFFFFFFFF : Word64).extractLsb' 52 11 = 0 ∧
    (0x800FFFFFFFFFFFFF : Word64).extractLsb' 0 52 ≠ 0 ∧ nearestEnv.daz = false ∧ nearestEnv.um = true := by decide +kernel
theorem witness_OverflowDetected : (0x47EFFFFFF0000000 : Word64).extractLsb' 52 11 ≠ 2047 ∧
    (cvt 0x47EFFFFFF0000000 nearestEnv).post &&& 0b001000 ≠ 0 := by decide +kernel
theorem witness_UnderflowDetected : (0x380FFFFFEFFFFFFF : Word64).extractLsb' 52 11 ≠ 2047 ∧
    dblMag 0x380FFFFFEFFFFFFF ≠ 0 ∧ ¬ (nearestEnv.daz = true ∧ (0x380FFFFFEFFFFFFF : Word64).extractLsb' 52 11 = 0) ∧
    nearestEnv.um = true ∧ nearestEnv.ftz = false ∧ dblMag 0x380FFFFFEFFFFFFF < 0x380FFFFFF0000000 := by decide +kernel
/-- Underflow unmasked: `2^-149` is exact, and a neighbour is inexact at 24 bits. -/
theorem witness_UnderflowDetected_unmasked :
    (cvt 0x36A0000000000000 { nearestEnv with um := false }).post = 0b010000 ∧
    (cvt 0x36A0000000000001 { nearestEnv with um := false }).post = 0b110000 := by decide +kernel
theorem witness_ConversionProperties : 897 ≤ ((0x3810000000000000 : Word64).extractLsb' 52 11).toNat ∧
    ((0x3810000000000000 : Word64).extractLsb' 52 11).toNat ≤ 1150 ∧
    (0x3810000000000000 : Word64).extractLsb' 0 29 = 0 ∧ dblMag 0x8000000000000000 = 0 ∧
    dblMag 0xFFF0000000000000 = 0x7FF0000000000000 := by decide +kernel
theorem witness_ConversionMonotone : dblMag 0xFFF0000000000000 ≤ 0x7FF0000000000000 ∧
    dblMag 0x380FFFFFF0000000 ≤ 0x7FF0000000000000 ∧ nearestEnv.ftz = false ∧
    dblKey 0xFFF0000000000000 ≤ dblKey 0x380FFFFFF0000000 := by decide +kernel
theorem witness_NearestIsNearest : (0x3FF0000010000000 : Word64).extractLsb' 52 11 ≠ 2047 ∧
    nearestEnv.rc = .nearest ∧ ¬ (nearestEnv.daz = true ∧ (0x3FF0000010000000 : Word64).extractLsb' 52 11 = 0) ∧
    nearestEnv.ftz = false ∧ (cvt 0x3FF0000010000000 nearestEnv).post &&& 0b001000 = 0 := by decide +kernel
theorem witness_DirectedRoundingIsTight : (0xB690000000000001 : Word64).extractLsb' 52 11 ≠ 2047 ∧
    Rounding.down ≠ .nearest ∧ (cvt 0xB690000000000001 { nearestEnv with rc := .down }).post &&& 0b001000 = 0 := by
  decide +kernel

end Sys2Proof.Tests
end

