-- ==== Sys2Proof/Proofs/Scope.lean ====
section
/-! SUPPORT. 00_scope.md R8: what a completed execution leaves as it was. -/

namespace Sys2Proof.Machine

/-- Of the three ways an execution ends, only completion leaves no exception: the other two record the
frame of the one they raise (R209). -/
theorem exec_completes_of_not_raised {s t : State} {i : Instr} (hx : exec i s = .next t) (ht : t.raised = none) :
    ∃ flags v, t = s.completed i (dstOf s.mode i) flags v := by
  rcases exec_next_cases hx with ⟨e, rfl, _⟩ | ⟨must, may, _, rfl⟩ | ⟨flags, rs, _, rfl⟩
  · simp at ht
  · simp at ht
  · exact ⟨flags, _, s.complete_eq_completed i _ flags _⟩

/-- Completion writes one vector register. -/
theorem State.zmmReg_completed_other (s : State) (i : Instr) {dst n : BitVec 5} (h : n ≠ dst) (flags : BitVec 6)
    (v : Zmm) : (s.completed i dst flags v).zmmReg n = s.zmmReg n := by
  rw [← s.complete_eq_completed, s.complete_zmmReg, if_neg h]

/-- Settles O30: the next state is a completion, whose frame is its definition. -/
theorem completionFrame : Obligations.CompletionFrame := by
  unfold Obligations.CompletionFrame
  intro s t i _ hx ht
  obtain ⟨flags, v, rfl⟩ := exec_completes_of_not_raised hx ht
  exact ⟨rfl, fun n hn => s.zmmReg_completed_other i hn flags v, fun _ => rfl⟩

end Sys2Proof.Machine
end

section
/-! SUPPORT. 10_state.md: what an execution reads and writes of the state, the step and the invariant it
keeps, addressing, and the encoding read back at the program counter. -/

namespace Sys2Proof.Machine

/-! ### How an execution ends -/

/-- A next state of an execution is an exception raised in `s`, or the end of the conversion of the
instruction's lanes by an enabled form. -/
theorem exec_raises_or_converts {s t : State} {i : Instr} (h : exec i s = .next t) :
    (∃ e, t = s.raise e) ∨
    (s.enabled i = true ∧
      t = s.convertAndWrite i.length (erOf i) (dstOf s.mode i) (writeOf i) (s.lanesOf i)) := by
  rw [exec_eq_execute] at h
  rcases s.execute_cases i.length (s.udOf i) (s.sourceOf i) (erOf i) (dstOf s.mode i) (writeOf i) with
    ⟨_, hx⟩ | ⟨_, _, hx⟩ | ⟨_, _, _, hx⟩ | ⟨_, hu, _, ⟨e, _, hx⟩ | ⟨w, _, hx⟩ | ⟨lanes, hs, hx⟩⟩ <;>
    rw [hx] at h <;> cases h
  · exact .inl ⟨.gp, rfl⟩
  · exact .inl ⟨.ud, rfl⟩
  · exact .inl ⟨.nm, rfl⟩
  · exact .inl ⟨e, rfl⟩
  · obtain rfl := State.lanes_of_sourceOf_ok hs
    exact .inr ⟨by simpa [s.udOf_eq] using hu, rfl⟩

/-- Two executions that reach the same source end the same, up to a map `f` of the states that commutes
with raising an exception and with the end of a conversion. Unlike `exec_transport` it lets MXCSR differ. -/
theorem exec_map {s s' t : State} {i : Instr} (f : State → State) (hsrc : s'.sourceOf i = s.sourceOf i)
    (hud : s'.udOf i = s.udOf i) (hts : s'.ts = s.ts) (hmode : s'.mode = s.mode)
    (hraise : ∀ e, s'.raise e = f (s.raise e))
    (hend : ∀ lanes, s'.convertAndWrite i.length (erOf i) (dstOf s.mode i) (writeOf i) lanes =
      f (s.convertAndWrite i.length (erOf i) (dstOf s.mode i) (writeOf i) lanes))
    (hx : exec i s = .next t) : exec i s' = .next (f t) := by
  rw [exec_eq_execute] at hx ⊢
  unfold State.execute at hx ⊢
  rw [hsrc, hud, hmode, hts]
  simp only [hraise]
  by_cases hlen : 15 < i.length
  · rw [if_pos hlen] at hx ⊢
    cases hx; rfl
  rw [if_neg hlen] at hx ⊢
  by_cases hu : s.udOf i = true
  · rw [if_pos hu] at hx ⊢
    cases hx; rfl
  rw [if_neg hu] at hx ⊢
  by_cases ht : s.ts = true
  · rw [if_pos ht] at hx ⊢
    cases hx; rfl
  rw [if_neg ht] at hx ⊢
  cases hs : s.sourceOf i with
  | raise e => rw [hs] at hx; cases hx; rfl
  | refuse why => rw [hs] at hx; cases hx
  | ok lanes => rw [hs] at hx; cases hx; simp only [hend]

/-- The `#UD` condition of an instruction reads the control registers, the mode and the parameters. -/
theorem State.udOf_congr {s s' : State} (i : Instr) (hmode : s'.mode = s.mode) (hcr0 : s'.cr0 = s.cr0)
    (hcr4 : s'.cr4 = s.cr4) (hxcr0 : s'.xcr0 = s.xcr0) (hcfg : s'.cfg = s.cfg) : s'.udOf i = s.udOf i := by
  simp only [State.udOf_eq, State.enabled, State.sseOn, State.avxOn, State.avx512On, hmode, hcr0, hcr4,
    hxcr0, hcfg]

/-! ### No execution detects ZE

Bit 2 of a set of conditions is ZE, division by zero, which no conversion can meet. -/

theorem cvtFinite_pre (s : Bool) (m : Nat) (q : Int) (env : CvtEnv) (pre : BitVec 6) :
    (cvtFinite s m q env pre).pre = pre := by
  unfold cvtFinite
  split
  · rfl
  · split
    · unfold cvtTiny
      dsimp only
      split
      · rfl
      · split <;> rfl
    · rfl

theorem zero_ze : (0 : BitVec 6).getLsbD 2 = false := by decide

theorem flag_ze : flagIE.getLsbD 2 = false ∧ flagDE.getLsbD 2 = false ∧ flagOE.getLsbD 2 = false ∧
    flagUE.getLsbD 2 = false ∧ flagPE.getLsbD 2 = false := by
  decide

theorem or_ze {a b : BitVec 6} (ha : a.getLsbD 2 = false) (hb : b.getLsbD 2 = false) :
    (a ||| b).getLsbD 2 = false := by
  rw [BitVec.getLsbD_or, ha, hb, Bool.or_false]

theorem peIf_ze (c : Bool) : (peIf c).getLsbD 2 = false := by
  obtain ⟨_, _, _, _, hpe⟩ := flag_ze
  cases c
  · exact zero_ze
  · exact hpe

theorem cvtFinite_post_ze (s : Bool) (m : Nat) (q : Int) (env : CvtEnv) (pre : BitVec 6) :
    (cvtFinite s m q env pre).post.getLsbD 2 = false := by
  obtain ⟨_, _, hoe, hue, hpe⟩ := flag_ze
  unfold cvtFinite
  split
  · exact or_ze hoe (peIf_ze _)
  · split
    · unfold cvtTiny
      dsimp only
      split
      · exact or_ze hue (peIf_ze _)
      · split
        · exact or_ze hue hpe
        · dsimp only
          split
          · exact or_ze hue hpe
          · exact zero_ze
    · exact peIf_ze _

/-- A conversion detects no division by zero (R16, R110). -/
theorem cvt_ze (x : Word64) (env : CvtEnv) :
    (cvt x env).pre.getLsbD 2 = false ∧ (cvt x env).post.getLsbD 2 = false := by
  obtain ⟨hie, hde, _, _, _⟩ := flag_ze
  unfold cvt
  split
  · split
    · refine ⟨?_, zero_ze⟩
      dsimp only
      split
      · exact zero_ze
      · exact hie
    · exact ⟨zero_ze, zero_ze⟩
  · split
    · split
      · exact ⟨zero_ze, zero_ze⟩
      · exact ⟨by rw [cvtFinite_pre]; exact hde, cvtFinite_post_ze _ _ _ _ _⟩
    · exact ⟨by rw [cvtFinite_pre]; exact zero_ze, cvtFinite_post_ze _ _ _ _ _⟩

theorem unionOver_ze {active : Nat → Bool} {f : Nat → BitVec 6} (h : ∀ j, (f j).getLsbD 2 = false) (n : Nat) :
    (unionOver active f n).getLsbD 2 = false := by
  induction n with
  | zero => exact zero_ze
  | succ n ih =>
    refine or_ze ih ?_
    split
    · exact h n
    · exact zero_ze

theorem State.preSet_ze (s : State) (i : Instr) : (s.preSet i).getLsbD 2 = false :=
  unionOver_ze (fun _ => (cvt_ze _ _).1) _

theorem State.postSet_ze (s : State) (i : Instr) : (s.postSet i).getLsbD 2 = false :=
  unionOver_ze (fun _ => (cvt_ze _ _).2) _

theorem State.unmasked_ze (s : State) {c : BitVec 6} (h : c.getLsbD 2 = false) :
    (s.unmasked c).getLsbD 2 = false := by
  rw [State.unmasked, BitVec.getLsbD_and, h, Bool.false_and]

/-- The end of an instruction's conversion: a trap or a completion, on conditions without ZE; a completion
writes the results of the instruction's lanes. -/
theorem State.convertAndWrite_lanesOf_cases (s : State) (i : Instr) (dst : BitVec 5)
    (write : BitVec 512 → List (Option Single) → BitVec 512) :
    (∃ must may, must.getLsbD 2 = false ∧ may.getLsbD 2 = false ∧
      s.convertAndWrite i.length (erOf i) dst write (s.lanesOf i) = s.trapSimd must may) ∨
    (∃ flags env, flags.getLsbD 2 = false ∧
      s.convertAndWrite i.length (erOf i) dst write (s.lanesOf i) =
        s.complete i.length dst flags (write (s.zmmReg dst) (s.resultsFor i env))) := by
  have hpre := s.preSet_ze i
  have hpost := s.postSet_ze i
  have hor := or_ze hpre hpost
  cases erOf i with
  | some rc => exact .inr ⟨0, _, zero_ze, s.convertAndWrite_er i rc dst write⟩
  | none =>
    rw [s.convertAndWrite_plain]
    split
    · cases s.cfg.xmPolicy with
      | prePost => exact .inl ⟨_, _, hpre, hpre, rfl⟩
      | anyBetween => exact .inl ⟨_, _, s.unmasked_ze hpre, hor, rfl⟩
    · split
      · cases s.cfg.xmPolicy with
        | prePost => exact .inl ⟨_, _, hor, hor, rfl⟩
        | anyBetween => exact .inl ⟨_, _, s.unmasked_ze hpost, hor, rfl⟩
      · exact .inr ⟨_, _, hor, rfl⟩

/-- A completed execution of an enabled form writes the results of the instruction's lanes. -/
theorem exec_completes_lanes {s t : State} {i : Instr} (hx : exec i s = .next t) (ht : t.raised = none) :
    s.enabled i = true ∧ ∃ flags env, t = s.complete i.length (dstOf s.mode i) flags
      (writeOf i (s.zmmReg (dstOf s.mode i)) (s.resultsFor i env)) := by
  rcases exec_raises_or_converts hx with ⟨e, rfl⟩ | ⟨hen, rfl⟩
  · cases ht
  · refine ⟨hen, ?_⟩
    rcases s.convertAndWrite_lanesOf_cases i (dstOf s.mode i) (writeOf i) with
      ⟨must, may, _, _, h⟩ | ⟨flags, env, _, h⟩
    · rw [h] at ht; cases ht
    · exact ⟨flags, env, h⟩

/-! ### MXCSR's flags (R15, R16) -/

theorem mxOr_getLsbD (v : BitVec 32) (flags : BitVec 6) {k : Nat} (h : 6 ≤ k) :
    (mxOr v flags).getLsbD k = v.getLsbD k := by
  rw [mxOr, BitVec.getLsbD_or, BitVec.getLsbD_setWidth, BitVec.getLsbD_of_ge flags k h, Bool.and_false,
    Bool.or_false]

/-- Recording flags leaves every field of MXCSR above them. -/
theorem mxOr_extractLsb' (v : BitVec 32) (flags : BitVec 6) {lo : Nat} (h : 6 ≤ lo) (n : Nat) :
    (mxOr v flags).extractLsb' lo n = v.extractLsb' lo n := by
  apply BitVec.eq_of_getLsbD_eq
  intro k _
  rw [BitVec.getLsbD_extractLsb', BitVec.getLsbD_extractLsb', mxOr_getLsbD v flags (by omega)]

theorem mxOr_comm (v : BitVec 32) (a b : BitVec 6) : mxOr (mxOr v a) b = mxOr (mxOr v b) a := by
  simp only [mxOr, BitVec.or_assoc, BitVec.or_comm (a.setWidth 32)]

theorem mxUnmasked_mxOr (v : BitVec 32) (flags c : BitVec 6) : mxUnmasked (mxOr v flags) c = mxUnmasked v c := by
  simp only [mxUnmasked, mxMasks, mxOr_extractLsb' v flags (by decide : 6 ≤ 7)]

/-- The environment of a conversion does not read the flags. -/
theorem cvtEnv_mxOr (flushExact : Bool) (v : BitVec 32) (flags : BitVec 6) (er : Option Rounding) :
    cvtEnv flushExact (mxOr v flags) er = cvtEnv flushExact v er := by
  have hbit : ∀ (k : Nat) (hk : k < 32), 6 ≤ k → (mxOr v flags)[k] = v[k] :=
    fun k hk h => mxOr_getLsbD v flags h
  cases er <;>
    simp only [cvtEnv, mxRc, mxDaz, mxFtz, mxOm, mxUm, mxOr_extractLsb' v flags (by decide : 6 ≤ 13), hbit,
      (by decide : 6 ≤ 6), (by decide : 6 ≤ 10), (by decide : 6 ≤ 11), (by decide : 6 ≤ 15)]

/-- The resolution of the lanes does not read the flags. -/
theorem resolve_mxOr (policy : XmPolicy) (v : BitVec 32) (flags : BitVec 6) (sae : Bool)
    (cs : List (Option Converted)) : resolve policy (mxOr v flags) sae cs = resolve policy v sae cs := by
  simp only [resolve, mxUnmasked_mxOr]

/-- Flags that are set before the end of a conversion are set after it, and decide nothing. -/
theorem State.convertAndWrite_mxOr (s : State) (flags : BitVec 6) (len : Nat) (er : Option Rounding)
    (dst : BitVec 5) (write : BitVec 512 → List (Option Single) → BitVec 512) (lanes : List (Option Word64)) :
    (s.setMxcsr (mxOr s.mxcsr flags)).convertAndWrite len er dst write lanes =
      (s.convertAndWrite len er dst write lanes).setMxcsr
        (mxOr (s.convertAndWrite len er dst write lanes).mxcsr flags) := by
  unfold State.convertAndWrite
  simp only [State.setMxcsr_cfg, State.setMxcsr_mxcsr, cvtEnv_mxOr, resolve_mxOr]
  split
  · simp only [State.trapSimd, State.setMxcsr, State.raise, mxOr_comm s.mxcsr flags]
    rfl
  · simp only [State.complete, State.setMxcsr, mxOr_comm s.mxcsr flags]
    rfl

theorem trapFlags_ze {free must may : BitVec 6} (h : must.getLsbD 2 = false) (h' : may.getLsbD 2 = false) :
    (trapFlags free must may).getLsbD 2 = false := by
  unfold trapFlags
  split
  · exact h
  · exact or_ze h (by rw [BitVec.getLsbD_and, h', Bool.and_false])

/-- An execution ORs a set of conditions without ZE into MXCSR, and does nothing else to it. -/
theorem exec_mxcsr {s t : State} {i : Instr} (hx : exec i s = .next t) :
    ∃ flags : BitVec 6, flags.getLsbD 2 = false ∧ t.mxcsr = mxOr s.mxcsr flags := by
  rcases exec_raises_or_converts hx with ⟨e, rfl⟩ | ⟨_, rfl⟩
  · exact ⟨0, zero_ze, by simp [mxOr]⟩
  · rcases s.convertAndWrite_lanesOf_cases i (dstOf s.mode i) (writeOf i) with
      ⟨must, may, h, h', he⟩ | ⟨flags, env, h, he⟩ <;> rw [he]
    · exact ⟨_, trapFlags_ze h h', s.trapSimd_mxcsr must may⟩
    · exact ⟨flags, h, rfl⟩

theorem mxOr_ze (v : BitVec 32) {flags : BitVec 6} (h : flags.getLsbD 2 = false) : (mxOr v flags)[2] = v[2] := by
  show (mxOr v flags).getLsbD 2 = v.getLsbD 2
  rw [mxOr, BitVec.getLsbD_or, BitVec.getLsbD_setWidth, h, Bool.and_false, Bool.or_false]

theorem mxOr_clears_none (v : BitVec 32) (flags : BitVec 6) : v &&& ~~~(mxOr v flags) = 0 := by
  apply BitVec.eq_of_getLsbD_eq
  intro k hk
  simp only [mxOr, BitVec.getLsbD_and, BitVec.getLsbD_not, BitVec.getLsbD_or]
  cases v.getLsbD k <;> simp

/-- Settles O31: an execution only ORs detected conditions into MXCSR, none of them ZE, and neither the
conversion nor its resolution reads the flags. -/
theorem mxcsrFlagsSticky : Obligations.MxcsrFlagsSticky := by
  unfold Obligations.MxcsrFlagsSticky
  intro s t i hx
  obtain ⟨detected, hze, hmx⟩ := exec_mxcsr hx
  refine ⟨?_, ?_, ?_, fun flags => ?_⟩
  · rw [hmx, mxOr_extractLsb' _ _ (le_refl 6)]
  · simpa only [hmx] using mxOr_ze s.mxcsr hze
  · rw [hmx, mxOr_clears_none]
  · have hsame : s.SameSource (s.setMxcsr (mxOr s.mxcsr flags)) i :=
      ⟨rfl, rfl, rfl, fun _ => rfl, rfl, rfl, fun _ _ => rfl, fun _ _ _ _ _ => rfl⟩
    exact exec_map (fun u => u.setMxcsr (mxOr u.mxcsr flags))
      (State.sourceOf_congr hsame fun _ => ⟨rfl, rfl⟩) (State.udOf_congr i rfl rfl rfl rfl rfl) rfl rfl
      (fun _ => rfl) (fun lanes => s.convertAndWrite_mxOr flags _ _ _ _ lanes) hx

/-! ### What an execution does not read -/

theorem State.plainOperand_of_plainSrc (s : State) (i : Instr) (pfx : List Prefix) (ext : Ext) (al : Bool)
    {m : Mode} {b : Bool} {rm : Rm} {n : BitVec 5} (h : plainSrc m b rm = some n) :
    s.plainOperand i pfx ext al rm = none := by
  cases rm with
  | reg k => rfl
  | mem a => cases h

theorem State.evexOperand_of_evexSrcReg (s : State) (i : Instr) (pfx : List Prefix) {m : Mode} {e : Evex}
    {rm : EvexRm} {n : BitVec 5} (h : evexSrcReg m e rm = some n) : s.evexOperand i pfx e rm = none := by
  cases rm with
  | reg k => rfl
  | mem a => cases h
  | bcst a => cases h

/-- A register source is no memory operand. -/
theorem State.memOperand_of_srcOf {s : State} {i : Instr} {n : BitVec 5} (h : srcOf s.mode i = some n) :
    s.memOperand i = none := by
  cases i with
  | cvtpd2ps => exact s.plainOperand_of_plainSrc _ _ _ _ h
  | vcvtpd2psVex128C5 => exact s.plainOperand_of_plainSrc _ _ _ _ h
  | vcvtpd2psVex128C4 => exact s.plainOperand_of_plainSrc _ _ _ _ h
  | vcvtpd2psVex256C5 => exact s.plainOperand_of_plainSrc _ _ _ _ h
  | vcvtpd2psVex256C4 => exact s.plainOperand_of_plainSrc _ _ _ _ h
  | vcvtpd2psEvex128 => exact s.evexOperand_of_evexSrcReg _ _ h
  | vcvtpd2psEvex256 => exact s.evexOperand_of_evexSrcReg _ _ h
  | vcvtpd2psEvex512 => exact s.evexOperand_of_evexSrcReg _ _ h
  | vcvtpd2psEvex512Er => rfl

/-- Writes of two different vector registers commute. -/
theorem State.complete_setZmm (s : State) {n dst : BitVec 5} (h : n ≠ dst) (len : Nat) (flags : BitVec 6)
    (v w : Zmm) : (s.setZmm n v).complete len dst flags w = (s.complete len dst flags w).setZmm n v := by
  have hne : n.toNat ≠ dst.toNat := fun e => h (BitVec.eq_of_toNat_eq e)
  have hz : (s.zmm.set n.toNat v n.isLt).set dst.toNat w dst.isLt =
      (s.zmm.set dst.toNat w dst.isLt).set n.toNat v n.isLt := Vector.set_comm v w hne
  simp only [State.complete, State.setZmm, State.setMxcsr, State.advance, hz]
  rfl

/-- Settles O33: two values of the source register that agree on the active lanes give the same lanes to
convert, and the destination is another register. -/
theorem inactiveLanesIrrelevant : Obligations.InactiveLanesIrrelevant := by
  unfold Obligations.InactiveLanesIrrelevant
  intro s t i n v hsrc hdst hlanes hx
  have hmem : s.memOperand i = none := State.memOperand_of_srcOf hsrc
  have hreg : ∀ m, srcOf s.mode i = some m → ∀ j < (vecLenOf i).kl, s.activeLane i j = true →
      elem64 ((s.setZmm n v).zmmReg m) j = elem64 (s.zmmReg m) j := by
    intro m hm j hj ha
    obtain rfl : n = m := Option.some.inj (hsrc.symm.trans hm)
    rw [s.zmmReg_setZmm_same]
    exact hlanes j hj ha
  have hsame : s.SameSource (s.setZmm n v) i :=
    ⟨rfl, rfl, rfl, fun _ => rfl, rfl, rfl, fun _ _ => rfl, hreg⟩
  exact exec_transport (fun u => u.setZmm n v) (State.sourceOf_congr hsame fun h => absurd hmem h)
    (State.udOf_congr i rfl rfl rfl rfl rfl) rfl rfl rfl rfl (s.zmmReg_setZmm_other hdst.symm v)
    (fun _ => rfl) (fun _ _ => rfl) (fun flags w => s.complete_setZmm hdst _ flags v w) hx

/-- The registers, and RFLAGS, that no instruction in scope writes. -/
structure State.SameUnwritten (s t : State) : Prop where
  k : t.k = s.k
  x87 : t.x87 = s.x87
  rflags : t.rflags = s.rflags

/-- However an execution ends, it leaves the opmasks, the x87 state and RFLAGS (R13, R18, R25). -/
theorem exec_unwritten {s t : State} {i : Instr} (hx : exec i s = .next t) : s.SameUnwritten t := by
  rcases exec_next_cases hx with ⟨e, rfl, _⟩ | ⟨must, may, _, rfl⟩ | ⟨flags, rs, _, rfl⟩
  · exact ⟨rfl, rfl, rfl⟩
  · exact ⟨rfl, rfl, rfl⟩
  · exact ⟨rfl, rfl, rfl⟩

/-- The lanes are active by the low `KL` bits of the selected opmask (R13, R14). -/
theorem State.activeLane_congr {s s' : State} {i : Instr}
    (h : ∀ e, evexOf? i = some e → e.aaa ≠ 0 → ∀ j < (vecLenOf i).kl,
      (s'.kReg e.aaa).getLsbD j = (s.kReg e.aaa).getLsbD j) :
    ∀ j < (vecLenOf i).kl, s'.activeLane i j = s.activeLane i j := by
  intro j hj
  unfold State.activeLane
  cases he : evexOf? i with
  | none => rfl
  | some e =>
    by_cases ha : e.aaa = 0
    · simp [ha]
    · simp only [h e he ha j hj]

/-- Settles O34: the opmask registers enter an execution only through its active lanes. -/
theorem opmaskBitsRead : Obligations.OpmaskBitsRead := by
  unfold Obligations.OpmaskBitsRead
  intro s t i k' hk hx
  constructor
  · exact (exec_unwritten hx).k
  · have hsame : s.SameSource { s with k := k' } i :=
      ⟨rfl, rfl, rfl, fun _ => rfl, rfl, rfl, State.activeLane_congr hk, fun _ _ _ _ _ => rfl⟩
    exact exec_transport (fun u => { u with k := k' }) (State.sourceOf_congr hsame fun _ => ⟨rfl, rfl⟩)
      (State.udOf_congr i rfl rfl rfl rfl rfl) rfl rfl rfl rfl rfl (fun _ => rfl) (fun _ _ => rfl)
      (fun _ _ => rfl) hx

/-- Settles O35: no operation of an execution reads or writes the field. -/
theorem x87Untouched : Obligations.X87Untouched := by
  unfold Obligations.X87Untouched
  intro s t i y hx
  constructor
  · exact (exec_unwritten hx).x87
  · have hsame : s.SameSource { s with x87 := y } i :=
      ⟨rfl, rfl, rfl, fun _ => rfl, rfl, rfl, fun _ _ => rfl, fun _ _ _ _ _ => rfl⟩
    exact exec_transport (fun u => { u with x87 := y }) (State.sourceOf_congr hsame fun _ => ⟨rfl, rfl⟩)
      (State.udOf_congr i rfl rfl rfl rfl rfl) rfl rfl rfl rfl rfl (fun _ => rfl) (fun _ _ => rfl)
      (fun _ _ => rfl) hx

/-- RFLAGS replaced, in the frame of a pending exception too. -/
def State.withRflags (s : State) (r : Word64) : State :=
  { s with rflags := r, raised := s.raised.map (fun f => { f with rflags := r }) }

/-- The mode depends on RFLAGS through VM. -/
theorem State.mode_withRflags (s : State) {r : Word64} (h : r[17] = s.rflags[17]) :
    State.mode { s with rflags := r } = s.mode := by
  have hv : State.vm { s with rflags := r } = s.vm := h
  unfold State.mode
  rw [hv]
  rfl

theorem State.acOn_withRflags (s : State) {r : Word64} (h : r[18] = s.rflags[18]) :
    State.acOn { s with rflags := r } = s.acOn := by
  have hc : State.ac { s with rflags := r } = s.ac := h
  unfold State.acOn
  rw [hc]
  rfl

/-- The frame of an exception holds RFLAGS and, by the mode, the IDT entry. -/
theorem State.raise_withRflags (s : State) {r : Word64} (h : r[17] = s.rflags[17]) (e : Exn) :
    State.raise { s with rflags := r } e = (s.raise e).withRflags r := by
  simp only [State.raise, State.withRflags, State.frame, State.idtEntry, State.mode_withRflags s h]
  rfl

/-- Settles O36: RFLAGS enters an execution through the mode (VM) and the alignment check (AC) only. -/
theorem rflagsNotUsed : Obligations.RflagsNotUsed := by
  unfold Obligations.RflagsNotUsed
  intro s t i r hr hx hvm hac
  constructor
  · exact (exec_unwritten hx).rflags
  · have hm := s.mode_withRflags hvm
    have hsame : s.SameSource { s with rflags := r } i :=
      ⟨hm, rfl, rfl, fun _ => by simp only [State.segBase, hm], rfl, rfl, fun _ _ => rfl, fun _ _ _ _ _ => rfl⟩
    refine exec_transport (fun u => u.withRflags r)
      (State.sourceOf_congr hsame fun _ => ⟨rfl, s.acOn_withRflags hac⟩)
      (State.udOf_congr i hm rfl rfl rfl rfl) rfl hm rfl rfl rfl (s.raise_withRflags hvm)
      (fun must may => ?_) (fun flags v => ?_) hx
    · exact State.raise_withRflags
        { s with mxcsr := (s.trapSimd must may).mxcsr, freeCount := (s.trapSimd must may).freeCount } hvm s.simdFp
    · simp only [State.complete, State.advance, State.nextRip, State.setZmm_mode, State.setMxcsr_mode, hm]
      simp only [State.setZmm, State.setMxcsr, State.withRflags, hr, Option.map_none]

/-! ### The step and its boundary (R22, R214) -/

theorem State.plainOperand_ne_none_iff (s : State) (i : Instr) (pfx : List Prefix) (ext : Ext) (al : Bool) (rm : Rm) :
    s.plainOperand i pfx ext al rm ≠ none ↔ rmInMemory rm = true := by
  cases rm <;> simp [State.plainOperand, rmInMemory]

theorem State.evexOperand_ne_none_iff (s : State) (i : Instr) (pfx : List Prefix) (e : Evex) (rm : EvexRm) :
    s.evexOperand i pfx e rm ≠ none ↔ evexRmInMemory rm = true := by
  cases rm <;> simp [State.evexOperand, evexRmInMemory]

/-- The boundary's view of a memory operand is the claims'. -/
theorem State.memOperand_ne_none_iff (s : State) (i : Instr) : s.memOperand i ≠ none ↔ hasMemory i = true := by
  cases i with
  | cvtpd2ps => exact s.plainOperand_ne_none_iff ..
  | vcvtpd2psVex128C5 => exact s.plainOperand_ne_none_iff ..
  | vcvtpd2psVex128C4 => exact s.plainOperand_ne_none_iff ..
  | vcvtpd2psVex256C5 => exact s.plainOperand_ne_none_iff ..
  | vcvtpd2psVex256C4 => exact s.plainOperand_ne_none_iff ..
  | vcvtpd2psEvex128 => exact s.evexOperand_ne_none_iff ..
  | vcvtpd2psEvex256 => exact s.evexOperand_ne_none_iff ..
  | vcvtpd2psEvex512 => exact s.evexOperand_ne_none_iff ..
  | vcvtpd2psEvex512Er => simp [State.memOperand, hasMemory]

/-- The boundary, in the terms of the claims (R214). -/
theorem State.boundary_eq (s t : State) (i : Instr) :
    t.boundary i =
      if t.raised ≠ none then t
      else if t.rflags[8] = true then t.raise .db
      else if t.dr7.extractLsb' 0 8 ≠ 0 ∧ s.memOperand i ≠ none then
        if Config.breakpointHit t.freeCount = true then State.raise { t with freeCount := t.freeCount + 1 } .db
        else { t with freeCount := t.freeCount + 1 }
      else t := by
  have hraised : t.raised.isSome = true ↔ t.raised ≠ none := Option.isSome_iff_ne_none
  have harmed : (t.breakpointArmed && hasMemory i) = true ↔
      t.dr7.extractLsb' 0 8 ≠ 0 ∧ s.memOperand i ≠ none := by
    rw [State.memOperand_ne_none_iff, Bool.and_eq_true, State.breakpointArmed, bne_iff_ne]
  simp only [State.boundary, hraised, harmed, State.tf]

/-- With nothing pending and a fetch that does not fault, a step follows the decoder. -/
theorem step_of_decoded {s : State} {i : Instr} (hr : s.raised = none)
    (hd : decode s.mode s.fetchBytes = .instr i) (hf : s.fetchable i.length) :
    step s = afterExec i (exec i s) := by
  have hfault : s.fetchFault = none := by
    rw [State.fetchFault_of_decoded hd, (s.nonCanonicalFetch_eq_false_iff _).mpr hf]
    rfl
  have hdec : s.decodeAtRip = .instr i := hd
  unfold step
  rw [hr]
  simp only [hfault, hdec]

/-- With nothing pending, a fetch that faults is the step. -/
theorem step_of_fetchFault {s : State} (hr : s.raised = none) (hf : s.fetchFault = some .gp) :
    step s = .next (s.raise .gp) := by
  unfold step
  rw [hr]
  simp only [hf]

theorem State.nonCanonicalFetch_of_not_fetchable {s : State} {n : Nat} (h : ¬ s.fetchable n) :
    s.nonCanonicalFetch n = true := by
  cases hc : s.nonCanonicalFetch n with
  | true => rfl
  | false => exact absurd ((s.nonCanonicalFetch_eq_false_iff n).mp hc) h

theorem State.fetchable_mono {s : State} {n m : Nat} (h : n ≤ m) (hm : s.fetchable m) : s.fetchable n :=
  fun hmode t ht => hm hmode t (by omega)

theorem one_le_length (i : Instr) : 1 ≤ i.length := by
  cases i <;> simp only [Instr.length, instrLength] <;> omega

/-- A pc that cannot be fetched faults whatever stands there. -/
theorem State.fetchFault_of_not_fetchable_one {s : State} (h : ¬ s.fetchable 1) : s.fetchFault = some .gp := by
  unfold State.fetchFault
  split
  · next i _ =>
    rw [State.nonCanonicalFetch_of_not_fetchable fun hi => h (State.fetchable_mono (one_le_length i) hi)]
    rfl
  · rw [State.nonCanonicalFetch_of_not_fetchable h]
    rfl

/-- Settles O5: the step is the fetch, `exec` and the boundary, each by its own lemma. -/
theorem stepRunsDecoded : Obligations.StepRunsDecoded := by
  unfold Obligations.StepRunsDecoded
  refine ⟨fun s i hr hd hf => ?_, fun s i hr hd hf => ?_, fun s hr hf => ?_⟩
  · rw [step_of_decoded hr hd hf]
    cases exec i s with
    | next t => exact congrArg Host.Outcome.next (State.boundary_eq s t i)
    | fault r => rfl
    | refused r => rfl
  · refine step_of_fetchFault hr ?_
    rw [State.fetchFault_of_decoded hd, State.nonCanonicalFetch_of_not_fetchable hf]
    rfl
  · exact step_of_fetchFault hr (State.fetchFault_of_not_fetchable_one hf)

/-! ### Reset (R30) -/

/-- With the control registers of RESET no form is enabled. -/
theorem State.reset_enabled (i : Instr) : State.reset.enabled i = false := by
  have hsse : State.reset.sseOn = false := by decide
  have havx : ∀ vl, State.reset.avxOn vl = false := fun vl => by cases vl <;> decide
  have hevex : ∀ vl, State.reset.avx512On vl = false := fun vl => by
    simp only [State.avx512On, havx, Bool.false_and]
  cases i <;> simp only [State.enabled, hsse, havx, hevex, Bool.and_false]

/-- An instruction that is not enabled is `#UD`, behind the length check (R205 steps 1 and 2). -/
theorem exec_not_enabled {s : State} {i : Instr} (h : s.enabled i = false) :
    exec i s = .next (s.raise (if 15 < i.length then .gp else .ud)) := by
  rw [exec_eq_execute, s.udOf_eq, h]
  unfold State.execute
  split <;> rfl

/-- Settles O44. -/
theorem resetLeaves : Obligations.ResetLeaves := by
  unfold Obligations.ResetLeaves
  refine ⟨?_, ?_, rfl, ?_, rfl, rfl, ?_, rfl, rfl, rfl, fun i => exec_not_enabled (State.reset_enabled i)⟩
  · intro n
    exact Vector.getElem_replicate _
  · intro a
    exact Vector.getElem_replicate _
  · intro n hn
    have hne : 2 ≠ n.toNat := fun e => hn (BitVec.eq_of_toNat_eq e.symm)
    simp [State.x, State.reset, hne]
  · decide

/-- Settles O46. -/
theorem resetHasInvariant : Obligations.ResetHasInvariant := by
  refine ⟨State.reset_mem_wf, by decide, fun n => ?_, fun f hf => ?_, fun _ => by decide⟩
  · have hz : State.reset.zmmReg n = 0 := Vector.getElem_replicate _
    rw [hz]
    exact BitVec.zero_ushiftRight
  · cases hf

/-! ### The invariant -/

/-- Raising keeps the invariant when the vector and the error code are R190's: the frame is the state's
own. -/
theorem State.inv_raise {s : State} {e : Exn} (hs : s.inv) (he : legalRaise s.cpl (s.frame e) = true) :
    (s.raise e).inv := by
  obtain ⟨hmem, hmx, hreg, _, hrip⟩ := hs
  refine ⟨hmem, hmx, hreg, fun f hf => ?_, hrip⟩
  cases hf
  refine ⟨he, ?_⟩
  simp only [State.frameAgrees, State.frame, State.raise_segs, State.raise_x, State.raise_rflags,
    State.raise_rip, decide_true, Bool.true_and]
  exact decide_eq_true rfl

/-- The exceptions other than a page fault carry the code of R190 by definition. -/
theorem legalRaise_frame (s : State) {e : Exn} (h : ∀ a fc, e ≠ .pf a fc) : legalRaise s.cpl (s.frame e) = true := by
  cases e with
  | pf a fc => exact absurd rfl (h a fc)
  | _ => rfl

/-- A page fault carries a code for a read at this privilege level (R197). -/
theorem legalRaise_pageFault (s : State) (a : Word64) {fc : BitVec 32} (h1 : fc[1] = false)
    (h2 : fc[2] = decide (s.cpl = 3)) : legalRaise s.cpl (s.frame (.pf a fc)) = true := by
  show (!fc[1] && (fc[2] == decide (s.cpl = 3))) = true
  simp [h1, h2]

/-- The invariant does not speak of the model's own counter, and of MXCSR only the reserved bits. -/
theorem State.inv_flags {s : State} (hs : s.inv) (flags : BitVec 6) (c : Nat) :
    State.inv { s with mxcsr := mxOr s.mxcsr flags, freeCount := c } := by
  obtain ⟨hmem, hmx, hreg, hraise, hrip⟩ := hs
  exact ⟨hmem, (mxOr_extractLsb' s.mxcsr flags (by decide) 16).trans hmx, hreg, hraise, hrip⟩

theorem State.inv_freeCount {s : State} (hs : s.inv) (c : Nat) : State.inv { s with freeCount := c } := hs

/-- The debug traps at the boundary keep the invariant. -/
theorem State.inv_boundary {s : State} (hs : s.inv) (i : Instr) : (s.boundary i).inv := by
  obtain ⟨c, h | ⟨_, h⟩⟩ := s.boundary_cases i <;> rw [h]
  · exact State.inv_freeCount hs c
  · exact State.inv_raise (State.inv_freeCount hs c) (legalRaise_frame _ (by simp))

/-- Outside 64-bit mode addresses and the pc are residues modulo 2^32 (R22, R49). -/
theorem truncMode_toNat {m : Mode} (h : m ≠ .long64) (a : Word64) : (truncMode m a).toNat = a.toNat % 2 ^ 32 := by
  simp only [truncMode, if_neg h, BitVec.toNat_setWidth]
  omega

theorem truncMode_toNat_lt {m : Mode} (h : m ≠ .long64) (a : Word64) : (truncMode m a).toNat < 2 ^ 32 := by
  rw [truncMode_toNat h]
  exact Nat.mod_lt _ (by decide)

/-- The bits above one position are zero when those above a lower one are. -/
theorem ushiftRight_eq_zero_mono {w a b : Nat} {v : BitVec w} (hab : a ≤ b) (h : v >>> a = 0) : v >>> b = 0 := by
  obtain ⟨d, rfl⟩ := Nat.exists_eq_add_of_le hab
  rw [BitVec.shiftRight_add, h]
  exact BitVec.zero_ushiftRight

/-- An enabled form is not wider than `MAX_VL` (log 18). -/
theorem State.vecLen_le_of_enabled {s : State} {i : Instr} (h : s.enabled i = true) :
    (vecLenOf i).bits ≤ s.cfg.maxVl.bits := by
  have h128 : VecLen.bits .v128 ≤ s.cfg.maxVl.bits := by cases s.cfg.maxVl <;> decide
  have havx : ∀ {vl}, s.avxOn vl = true → vl.bits ≤ s.cfg.maxVl.bits := fun hv => by
    simp only [State.avxOn, Bool.and_eq_true, decide_eq_true_eq] at hv
    exact hv.2
  have hevex : ∀ {vl}, s.avx512On vl = true → vl.bits ≤ s.cfg.maxVl.bits := fun hv => by
    simp only [State.avx512On, Bool.and_eq_true] at hv
    obtain ⟨⟨⟨⟨⟨hv, _⟩, _⟩, _⟩, _⟩, _⟩ := hv
    exact havx hv
  unfold State.enabled at h
  obtain ⟨_, hon⟩ := Bool.and_eq_true_iff.mp h
  cases i with
  | cvtpd2ps => exact h128
  | vcvtpd2psVex128C5 => exact h128
  | vcvtpd2psVex128C4 => exact h128
  | vcvtpd2psVex256C5 => exact havx (Bool.and_eq_true_iff.mp hon).2
  | vcvtpd2psVex256C4 => exact havx (Bool.and_eq_true_iff.mp hon).2
  | vcvtpd2psEvex128 => exact hevex hon
  | vcvtpd2psEvex256 => exact hevex hon
  | vcvtpd2psEvex512 => exact hevex hon
  | vcvtpd2psEvex512Er => exact hevex hon

/-- A completed form writes nothing from bit `VL/2` on, or keeps what F-SSE keeps there. -/
theorem State.writeOf_upper (s : State) (i : Instr) (old : BitVec 512) (env : CvtEnv) :
    writeOf i old (s.resultsFor i env) >>> ((vecLenOf i).bits / 2) = 0 ∨
    ((vecLenOf i).bits = 128 ∧
      (writeOf i old (s.resultsFor i env)).extractLsb' 128 384 = old.extractLsb' 128 384) := by
  cases i with
  | cvtpd2ps pfx reg rm =>
    have hres : s.resultsFor (.cvtpd2ps pfx reg rm) env = (List.range 2).map
        (fun j => some (cvt (s.operandLane (.cvtpd2ps pfx reg rm) j) env).r) := rfl
    rw [hres]
    exact .inr ⟨rfl, (sseWrite_spec old _).2.2⟩
  | _ => exact .inl (s.evexWrite_spec _ _ old env).2

/-- Bits that agree from position `lo` on shift out alike. -/
theorem ushiftRight_eq_zero_of_extract {v w : BitVec 512} (h : v.extractLsb' 128 384 = w.extractLsb' 128 384)
    {n : Nat} (hn : 128 ≤ n) (hw : w >>> n = 0) : v >>> n = 0 := by
  apply BitVec.eq_of_getLsbD_eq
  intro k _
  have hvw := congrArg (fun x => x.getLsbD (n + k - 128)) h
  have hwk := congrArg (fun x => x.getLsbD k) hw
  simp only [BitVec.getLsbD_extractLsb', BitVec.getLsbD_ushiftRight, (by omega : 128 + (n + k - 128) = n + k)]
    at hvw hwk ⊢
  by_cases hlt : n + k - 128 < 384
  · simp only [hlt, decide_true, Bool.true_and] at hvw
    rw [hvw, hwk]
  · rw [BitVec.getLsbD_of_ge v _ (by omega)]
    exact BitVec.getLsbD_zero.symm

/-- The result of an enabled form has no bit above `MAX_VL`, if the destination has none. -/
theorem State.writeOf_above_maxVl {s : State} {i : Instr} (hen : s.enabled i = true) (env : CvtEnv)
    {old : BitVec 512} (hold : old >>> s.cfg.maxVl.bits = 0) :
    writeOf i old (s.resultsFor i env) >>> s.cfg.maxVl.bits = 0 := by
  have hle := State.vecLen_le_of_enabled hen
  rcases s.writeOf_upper i old env with h | ⟨h128, h⟩
  · exact ushiftRight_eq_zero_mono (by omega) h
  · exact ushiftRight_eq_zero_of_extract h (by omega) hold

/-- A completion keeps the invariant. -/
theorem State.inv_complete {s : State} {i : Instr} (hs : s.inv) (hen : s.enabled i = true) (hr : s.raised = none)
    (dst : BitVec 5) (flags : BitVec 6) (env : CvtEnv) :
    (s.complete i.length dst flags (writeOf i (s.zmmReg dst) (s.resultsFor i env))).inv := by
  obtain ⟨hmem, hmx, hreg, _, hrip⟩ := hs
  refine ⟨hmem, (mxOr_extractLsb' s.mxcsr flags (by decide) 16).trans hmx, fun n => ?_, fun f hf => ?_,
    fun hm => truncMode_toNat_lt hm _⟩
  · rw [State.complete_zmmReg, State.complete_cfg]
    split
    · exact State.writeOf_above_maxVl hen env (hreg dst)
    · exact hreg n
  · rw [State.complete_raised, hr] at hf
    cases hf

/-- Every way an execution ends keeps the invariant. -/
theorem exec_keeps_inv {s t : State} {i : Instr} (hs : s.inv) (hr : s.raised = none) (hx : exec i s = .next t) :
    t.inv := by
  rcases exec_next_cases hx with ⟨e, rfl, he⟩ | ⟨must, may, _, rfl⟩ | ⟨flags, rs, _, rfl⟩
  · refine State.inv_raise hs ?_
    rcases he with rfl | rfl | rfl | rfl | rfl | ⟨a, fc, rfl, _, h1, h2⟩
    case inr.inr.inr.inr.inr => exact legalRaise_pageFault s a h1 h2
    all_goals exact legalRaise_frame s (by simp)
  · refine State.inv_raise (State.inv_flags hs _ _) (legalRaise_frame _ fun a fc h => ?_)
    unfold State.simdFp at h
    split at h <;> cases h
  · obtain ⟨hen, flags', env, ht⟩ := exec_completes_lanes hx hr
    rw [ht]
    exact State.inv_complete hs hen hr _ _ _

/-- Settles O47: a step is a fault of the fetch, or an execution and the boundary after it. -/
theorem stepKeepsInvariant : Obligations.StepKeepsInvariant := by
  unfold Obligations.StepKeepsInvariant
  intro s t hs hstep
  obtain ⟨hr, rfl | ⟨i, u, _, hx, rfl⟩⟩ := step_next_cases hstep
  · exact State.inv_raise hs (legalRaise_frame s (by simp))
  · exact State.inv_boundary (exec_keeps_inv hs hr hx) i

/-! ### Address arithmetic as integers modulo the address size (R80, R82) -/

theorem toNat_modEq_of_modEq_two_pow {sz : AddrSize} {a b : Int} (h : a ≡ b [ZMOD 2 ^ 64]) :
    a ≡ b [ZMOD 2 ^ addrBits sz] :=
  h.of_dvd (pow_dvd_pow 2 (by cases sz <;> decide))

theorem toNat_add_modEq (sz : AddrSize) (x y : Word64) :
    ((x + y).toNat : Int) ≡ x.toNat + y.toNat [ZMOD 2 ^ addrBits sz] := by
  refine toNat_modEq_of_modEq_two_pow ?_
  rw [BitVec.toNat_add]
  push_cast
  exact Int.mod_modEq _ _

theorem toNat_mul_modEq (sz : AddrSize) (x y : Word64) :
    ((x * y).toNat : Int) ≡ x.toNat * y.toNat [ZMOD 2 ^ addrBits sz] := by
  refine toNat_modEq_of_modEq_two_pow ?_
  rw [BitVec.toNat_mul]
  push_cast
  exact Int.mod_modEq _ _

theorem toNat_ofNat_modEq (sz : AddrSize) (n : Nat) :
    ((BitVec.ofNat 64 n).toNat : Int) ≡ n [ZMOD 2 ^ addrBits sz] := by
  refine toNat_modEq_of_modEq_two_pow ?_
  rw [BitVec.toNat_ofNat]
  push_cast
  exact Int.mod_modEq _ _

theorem toNat_shiftLeft_modEq (sz : AddrSize) (x : Word64) (k : Nat) :
    ((x <<< k).toNat : Int) ≡ x.toNat * 2 ^ k [ZMOD 2 ^ addrBits sz] := by
  refine toNat_modEq_of_modEq_two_pow ?_
  rw [BitVec.toNat_shiftLeft, Nat.shiftLeft_eq]
  push_cast
  exact Int.mod_modEq _ _

/-- Sign extension keeps the signed value (R79). -/
theorem toNat_signExtend_modEq (sz : AddrSize) {w : Nat} (hw : w ≤ 64) (d : BitVec w) :
    (((d.signExtend 64 : Word64).toNat : Nat) : Int) ≡ d.toInt [ZMOD 2 ^ addrBits sz] := by
  refine toNat_modEq_of_modEq_two_pow ?_
  rw [← BitVec.toInt_signExtend_of_le hw, BitVec.toInt_eq_toNat_bmod]
  exact (Int.bmod_emod.symm : _)

/-- Truncation to the address size is the residue. -/
theorem truncAddr_toNat (sz : AddrSize) (a : Word64) :
    ((truncAddr sz a).toNat : Int) = (a.toNat : Int) % 2 ^ addrBits sz := by
  have h := a.isLt
  cases sz <;> simp only [truncAddr, addrBits, BitVec.toNat_setWidth] <;> omega

theorem truncAddr_toNat_of_modEq {sz : AddrSize} {a : Word64} {z : Int}
    (h : (a.toNat : Int) ≡ z [ZMOD 2 ^ addrBits sz]) : ((truncAddr sz a).toNat : Int) = z % 2 ^ addrBits sz :=
  (truncAddr_toNat sz a).trans h

theorem State.addrReg_modEq (s : State) (sz : AddrSize) (i : BitVec 4) :
    ((s.addrReg sz i).toNat : Int) ≡ s.xInt i [ZMOD 2 ^ addrBits sz] := by
  rw [State.addrReg, truncAddr_toNat]
  exact Int.mod_modEq _ _

theorem dispValue_modEq (sz : AddrSize) (n : Nat) (d : Disp) :
    ((dispValue n d).toNat : Int) ≡ dispInt n d [ZMOD 2 ^ addrBits sz] := by
  cases d with
  | none => rfl
  | disp8 d =>
    exact (toNat_mul_modEq sz _ _).trans
      ((toNat_ofNat_modEq sz n).mul (toNat_signExtend_modEq sz (by decide) d))
  | disp32 d => exact toNat_signExtend_modEq sz (by decide) d

theorem disp16Value_modEq (n : Nat) (d : Disp16) :
    ((disp16Value n d).toNat : Int) ≡ disp16Int n d [ZMOD 2 ^ addrBits .a16] := by
  cases d with
  | none => rfl
  | disp8 d =>
    exact (toNat_mul_modEq .a16 _ _).trans
      ((toNat_ofNat_modEq .a16 n).mul (toNat_signExtend_modEq .a16 (by decide) d))
  | disp16 d =>
    have h : d.toNat % 2 ^ 64 = d.toNat := Nat.mod_eq_of_lt (by have := d.isLt; omega)
    simp only [disp16Value, disp16Int, BitVec.toNat_setWidth, h]
    rfl

theorem State.indexValue_modEq (s : State) (sz : AddrSize) (x : Bool) (sc : BitVec 2) (i : BitVec 3) :
    ((s.indexValue sz x sc i).toNat : Int) ≡ s.indexInt sc (gprNum s.mode x i) [ZMOD 2 ^ addrBits sz] := by
  unfold State.indexValue State.indexInt
  by_cases h : gprNum s.mode x i = 4
  · rw [if_pos h, if_pos h]
    rfl
  · rw [if_neg h, if_neg h]
    exact (toNat_shiftLeft_modEq sz _ _).trans ((s.addrReg_modEq sz _).mul_right _)

/-! ### The effective address of every form, in every mode -/

theorem State.effectiveAddr_base (s : State) (sz : AddrSize) (ext : Ext) (n len : Nat) (rm : BitVec 3) (d : Disp) :
    ((s.effectiveAddr sz ext n len (.base rm d)).toNat : Int) =
      (s.xInt (gprNum s.mode ext.b rm) + dispInt n d) % 2 ^ addrBits sz :=
  truncAddr_toNat_of_modEq
    ((toNat_add_modEq sz _ _).trans ((s.addrReg_modEq sz _).add (dispValue_modEq sz n d)))

theorem State.effectiveAddr_sib (s : State) (sz : AddrSize) (ext : Ext) (n len : Nat) (sc : BitVec 2)
    (i b : BitVec 3) (d : Disp) :
    ((s.effectiveAddr sz ext n len (.sib sc i b d)).toNat : Int) =
      (s.xInt (gprNum s.mode ext.b b) + s.indexInt sc (gprNum s.mode ext.x i) + dispInt n d) %
        2 ^ addrBits sz := by
  refine truncAddr_toNat_of_modEq ((toNat_add_modEq sz _ _).trans (Int.ModEq.add ?_ (dispValue_modEq sz n d)))
  exact (toNat_add_modEq sz _ _).trans ((s.addrReg_modEq sz _).add (s.indexValue_modEq sz ext.x sc i))

theorem State.effectiveAddr_sibNoBase (s : State) (sz : AddrSize) (ext : Ext) (n len : Nat) (sc : BitVec 2)
    (i : BitVec 3) (d : BitVec 32) :
    ((s.effectiveAddr sz ext n len (.sibNoBase sc i d)).toNat : Int) =
      (s.indexInt sc (gprNum s.mode ext.x i) + d.toInt) % 2 ^ addrBits sz :=
  truncAddr_toNat_of_modEq ((toNat_add_modEq sz _ _).trans
    ((s.indexValue_modEq sz ext.x sc i).add (toNat_signExtend_modEq sz (by decide) d)))

/-- A displacement alone is RIP-relative in 64-bit mode (R80). -/
theorem State.effectiveAddr_dispOnly_long64 (s : State) (h : s.mode = .long64) (sz : AddrSize) (ext : Ext)
    (n len : Nat) (d : BitVec 32) :
    ((s.effectiveAddr sz ext n len (.dispOnly d)).toNat : Int) =
      (s.rip.toNat + len + d.toInt) % 2 ^ addrBits sz := by
  refine truncAddr_toNat_of_modEq ?_
  dsimp only
  rw [if_pos h]
  refine (toNat_add_modEq sz _ _).trans (Int.ModEq.add ?_ (toNat_signExtend_modEq sz (by decide) d))
  exact (toNat_add_modEq sz _ _).trans ((Int.ModEq.refl _).add (toNat_ofNat_modEq sz len))

/-- A displacement alone is absolute outside 64-bit mode (R80). -/
theorem State.effectiveAddr_dispOnly_absolute (s : State) (h : s.mode ≠ .long64) (ext : Ext) (n len : Nat)
    (d : BitVec 32) : (s.effectiveAddr .a32 ext n len (.dispOnly d)).toNat = d.toNat := by
  have hz : ((s.effectiveAddr .a32 ext n len (.dispOnly d)).toNat : Int) = d.toInt % 2 ^ addrBits .a32 := by
    refine truncAddr_toNat_of_modEq ?_
    dsimp only
    rw [if_neg h]
    exact toNat_signExtend_modEq .a32 (by decide) d
  have hd : d.toInt % 2 ^ addrBits .a32 = d.toNat := by
    rw [BitVec.toInt_eq_toNat_bmod]
    exact Int.bmod_emod.trans (Int.emod_eq_of_lt (by omega) (by exact_mod_cast d.isLt))
  exact_mod_cast hz.trans hd

/-- The register sum of a 16-bit form: BX or BP, absent in two of them, and SI or DI, absent in two
(R82). -/
theorem State.base16_modEq (s : State) (rm : BitVec 3) :
    ((s.base16 rm).toNat : Int) ≡
      (if rm = 0 ∨ rm = 1 ∨ rm = 7 then s.xInt 3 else if rm = 2 ∨ rm = 3 ∨ rm = 6 then s.xInt 5 else 0) +
      (if rm = 0 ∨ rm = 2 ∨ rm = 4 then s.xInt 6 else if rm = 1 ∨ rm = 3 ∨ rm = 5 then s.xInt 7 else 0)
      [ZMOD 2 ^ addrBits .a16] := by
  have one : ∀ i, ((s.addrReg .a16 i).toNat : Int) ≡ s.xInt i [ZMOD 2 ^ addrBits .a16] := s.addrReg_modEq .a16
  have two : ∀ i j, ((s.addrReg .a16 i + s.addrReg .a16 j).toNat : Int) ≡ s.xInt i + s.xInt j
      [ZMOD 2 ^ addrBits .a16] := fun i j => (toNat_add_modEq .a16 _ _).trans ((one i).add (one j))
  have hrm : rm = 0 ∨ rm = 1 ∨ rm = 2 ∨ rm = 3 ∨ rm = 4 ∨ rm = 5 ∨ rm = 6 ∨ rm = 7 := by
    revert rm; decide
  rcases hrm with rfl | rfl | rfl | rfl | rfl | rfl | rfl | rfl
  · exact two 3 6
  · exact two 3 7
  · exact two 5 6
  · exact two 5 7
  · simpa [State.base16] using one 6
  · simpa [State.base16] using one 7
  · simpa [State.base16] using one 5
  · simpa [State.base16] using one 3

theorem State.effectiveAddr_base16 (s : State) (ext : Ext) (n len : Nat) (rm : BitVec 3) (d : Disp16) :
    ((s.effectiveAddr .a16 ext n len (.base16 rm d)).toNat : Int) =
      ((if rm = 0 ∨ rm = 1 ∨ rm = 7 then s.xInt 3 else if rm = 2 ∨ rm = 3 ∨ rm = 6 then s.xInt 5 else 0) +
        (if rm = 0 ∨ rm = 2 ∨ rm = 4 then s.xInt 6 else if rm = 1 ∨ rm = 3 ∨ rm = 5 then s.xInt 7 else 0) +
        disp16Int n d) % 2 ^ 16 :=
  truncAddr_toNat_of_modEq (sz := .a16)
    ((toNat_add_modEq .a16 _ _).trans ((s.base16_modEq rm).add (disp16Value_modEq n d)))

theorem State.effectiveAddr_dispOnly16 (s : State) (ext : Ext) (n len : Nat) (d : BitVec 16) :
    (s.effectiveAddr .a16 ext n len (.dispOnly16 d)).toNat = d.toNat := by
  have := d.isLt
  simp only [State.effectiveAddr, truncAddr, BitVec.toNat_setWidth]
  omega

/-! ### Register numbers and segments (R21, R62, R75) -/

theorem gprNum_long64 (v : Bool) (n : BitVec 3) : gprNum .long64 v n = BitVec.ofBool v ++ n := rfl

/-- Outside 64-bit mode an extension bit is 0. -/
theorem gprNum_of_ne_long64 {m : Mode} (h : m ≠ .long64) (v : Bool) (n : BitVec 3) : gprNum m v n = 0#1 ++ n := by
  simp [gprNum, extBit, h]

theorem gprNum_zero_eq_iff (n k : BitVec 3) : (0#1 ++ n : BitVec 4) = 0#1 ++ k ↔ n = k := by
  revert n k; decide

/-- Nothing overrides exactly when none of the prefixes does by itself. -/
theorem segOverride_eq_none_iff (m : Mode) (pfx : List Prefix) :
    segOverride m pfx = none ↔ ∀ p ∈ pfx, overrideOf m p = none := by
  induction pfx with
  | nil => simp [segOverride]
  | cons p ps ih =>
    rw [List.forall_mem_cons, ← ih, segOverride]
    cases segOverride m ps <;> simp

/-- The last override that counts wins (log 14). -/
theorem segOverride_last {m : Mode} {before after : List Prefix} {p : Prefix} {r : Seg}
    (hp : overrideOf m p = some r) (hafter : ∀ q ∈ after, overrideOf m q = none) :
    segOverride m (before ++ p :: after) = some r := by
  induction before with
  | nil => simp only [List.nil_append, segOverride, (segOverride_eq_none_iff m after).mpr hafter, hp]
  | cons q qs ih => simp only [List.cons_append, segOverride, ih]

/-- In 64-bit mode FS and GS are the overrides that count. -/
theorem overrideOf_long64_eq_none {p : Prefix} (hfs : p ≠ .seg .fs) (hgs : p ≠ .seg .gs) :
    overrideOf .long64 p = none := by
  cases p with
  | seg r =>
    cases r with
    | fs => exact absurd rfl hfs
    | gs => exact absurd rfl hgs
    | _ => rfl
  | _ => rfl

/-- Outside 64-bit mode every segment override counts. -/
theorem overrideOf_seg {m : Mode} (h : m ≠ .long64) (r : Seg) : overrideOf m (.seg r) = some r := by
  cases r <;> simp [overrideOf, h]

theorem overrideOf_eq_none {m : Mode} {p : Prefix} (h : ∀ q, p ≠ .seg q) : overrideOf m p = none := by
  cases p with
  | seg r => exact absurd rfl (h r)
  | _ => rfl

theorem operandSeg_of_segOverride {m : Mode} {pfx : List Prefix} {r : Seg} (h : segOverride m pfx = some r)
    (ext : Ext) (a : Addr) : operandSeg m pfx ext a = r := by
  rw [operandSeg, h, Option.getD_some]

theorem operandSeg_default {m : Mode} {pfx : List Prefix} (h : ∀ p ∈ pfx, overrideOf m p = none) (ext : Ext)
    (a : Addr) : operandSeg m pfx ext a = defaultSeg m ext a := by
  rw [operandSeg, (segOverride_eq_none_iff m pfx).mpr h, Option.getD_none]

/-- The address size in 64-bit mode. -/
theorem addrSizeOf_long64 (pfx : List Prefix) :
    addrSizeOf .long64 pfx = if Prefix.addrSize ∈ pfx then .a32 else .a64 := by
  by_cases h : Prefix.addrSize ∈ pfx <;> simp [addrSizeOf, h]

/-- The address size outside 64-bit mode: 67 takes the other one (log 7). -/
theorem addrSizeOf_of_ne_long64 {m : Mode} (hm : m ≠ .long64) (pfx : List Prefix) :
    addrSizeOf m pfx = if Prefix.addrSize ∈ pfx ↔ (m = .real ∨ m = .v86) then .a32 else .a16 := by
  cases m with
  | long64 => exact absurd rfl hm
  | _ => by_cases h : Prefix.addrSize ∈ pfx <;> simp [addrSizeOf, h]

/-- In 64-bit mode only FS and GS have a base. -/
theorem State.segBase_long64 {s : State} (h : s.mode = .long64) (r : Seg) :
    s.segBase r = if r = .fs then s.segs.fs.base else if r = .gs then s.segs.gs.base else 0 := by
  cases r <;> simp [State.segBase, h]

/-- Outside 64-bit mode every segment has one. -/
theorem State.segBase_of_ne_long64 {s : State} (h : s.mode ≠ .long64) (r : Seg) :
    s.segBase r = (Segs.get s.segs r).base :=
  if_neg h

theorem truncMode_long64 (a : Word64) : truncMode .long64 a = a := rfl

/-- Settles O49: the effective addresses hold in every mode with the register numbers of `gprNum`, which
are the extended ones in 64-bit mode and the plain ones outside it. -/
theorem effectiveAddressLong64 : Obligations.EffectiveAddressLong64 := by
  unfold Obligations.EffectiveAddressLong64
  intro s pfx ext n len
  refine ⟨fun hm => ⟨fun a => ?_, fun a before after r hr hpfx hfs hgs => ?_, fun a hfs hgs => ?_,
    fun sz _ => ⟨fun rm d => ?_, fun d => ?_, fun sc i b d => ?_, fun sc i d => ?_⟩,
    fun rm d => ?_, fun sc i b d => ?_⟩,
    fun hm => ⟨fun rm d => ?_, fun d => ?_, fun sc i b d => ?_, fun sc i d => ?_, fun rm d => ?_,
      fun sc i b d => ?_⟩, fun _ => rfl, fun _ _ _ => rfl⟩
  · rw [State.linear, State.segBase_long64 hm, hm, addrSizeOf_long64, truncMode_long64]
  · rw [hm]
    subst hpfx
    refine operandSeg_of_segOverride (segOverride_last ?_ fun q hq => ?_) ext a
    · rcases hr with rfl | rfl <;> rfl
    · exact overrideOf_long64_eq_none (fun e => hfs (e ▸ hq)) (fun e => hgs (e ▸ hq))
  · rw [hm]
    exact operandSeg_default
      (fun p hp => overrideOf_long64_eq_none (fun e => hfs (e ▸ hp)) (fun e => hgs (e ▸ hp))) ext a
  · rw [s.effectiveAddr_base, hm, gprNum_long64]
  · exact s.effectiveAddr_dispOnly_long64 hm sz ext n len d
  · rw [s.effectiveAddr_sib, hm, gprNum_long64, gprNum_long64]
  · rw [s.effectiveAddr_sibNoBase, hm, gprNum_long64]
  · rw [hm]; rfl
  · rw [hm]; rfl
  · rw [s.effectiveAddr_base, gprNum_of_ne_long64 hm]; rfl
  · exact s.effectiveAddr_dispOnly_absolute hm ext n len d
  · rw [s.effectiveAddr_sib, gprNum_of_ne_long64 hm, gprNum_of_ne_long64 hm]; rfl
  · rw [s.effectiveAddr_sibNoBase, gprNum_of_ne_long64 hm]; rfl
  · rw [defaultSeg, gprNum_of_ne_long64 hm]
    exact if_congr (gprNum_zero_eq_iff rm 5) rfl rfl
  · rw [defaultSeg, gprNum_of_ne_long64 hm]
    exact if_congr (or_congr (gprNum_zero_eq_iff b 4) (gprNum_zero_eq_iff b 5)) rfl rfl

/-- Settles O50. -/
theorem effectiveAddress16 : Obligations.EffectiveAddress16 := by
  unfold Obligations.EffectiveAddress16
  intro s pfx ext n len
  refine ⟨s.effectiveAddr_base16 ext n len, s.effectiveAddr_dispOnly16 ext n len, fun _ _ => rfl, fun _ => rfl,
    fun hm => ⟨fun a => ?_, fun a before after r hpfx hafter => ?_, fun a hnone => ?_⟩⟩
  · rw [State.linear, truncMode_toNat hm, addrSizeOf_of_ne_long64 hm, State.segBase_of_ne_long64 hm,
      BitVec.toNat_add, Nat.mod_mod_of_dvd _ (by decide : 2 ^ 32 ∣ 2 ^ 64)]
    cases operandSeg s.mode pfx ext a <;> rfl
  · subst hpfx
    refine operandSeg_of_segOverride (segOverride_last (overrideOf_seg hm r) fun q hq => ?_) ext a
    exact overrideOf_eq_none fun seg e => hafter seg (e ▸ hq)
  · exact operandSeg_default (fun p hp => overrideOf_eq_none fun seg e => hnone seg (e ▸ hp)) ext a

/-! ### The fields of the encoded bytes (R64, R65, R70, R73, R76, R77) -/

theorem modrmByte_fields (mod : BitVec 2) (reg rm : BitVec 3) :
    (modrmByte mod reg rm).extractLsb' 6 2 = mod ∧ (modrmByte mod reg rm).extractLsb' 3 3 = reg ∧
    (modrmByte mod reg rm).extractLsb' 0 3 = rm := by
  revert mod reg rm; decide

theorem sibByte_fields (sc : BitVec 2) (i b : BitVec 3) :
    (sibByte sc i b).extractLsb' 6 2 = sc ∧ (sibByte sc i b).extractLsb' 3 3 = i ∧
    (sibByte sc i b).extractLsb' 0 3 = b :=
  modrmByte_fields sc i b

theorem vex2Byte_fields (v : Vex2) (l : Bool) :
    (vex2Byte v l).extractLsb' 0 2 = 0b01 ∧ (vex2Byte v l)[2] = l ∧
    Vex2.mk (!(vex2Byte v l)[7]) ((vex2Byte v l).extractLsb' 3 4) = v := by
  obtain ⟨r, vvvv⟩ := v
  revert r vvvv l; decide

theorem vex3Bytes_fields (v : Vex3) (l : Bool) :
    (vex3Byte1 v).extractLsb' 0 5 = 0b00001 ∧ (vex3Byte2 v l).extractLsb' 0 2 = 0b01 ∧ (vex3Byte2 v l)[2] = l ∧
    Vex3.mk (!(vex3Byte1 v)[7]) (!(vex3Byte1 v)[6]) (!(vex3Byte1 v)[5]) (vex3Byte2 v l)[7]
      ((vex3Byte2 v l).extractLsb' 3 4) = v := by
  obtain ⟨r, x, b, w, vvvv⟩ := v
  have h1 : ∀ r x b : Bool, ∀ w vvvv, (vex3Byte1 ⟨r, x, b, w, vvvv⟩).extractLsb' 0 5 = 0b00001 ∧
      (!(vex3Byte1 ⟨r, x, b, w, vvvv⟩)[7]) = r ∧ (!(vex3Byte1 ⟨r, x, b, w, vvvv⟩)[6]) = x ∧
      (!(vex3Byte1 ⟨r, x, b, w, vvvv⟩)[5]) = b := by
    unfold vex3Byte1; decide
  have h2 : ∀ r x b w : Bool, ∀ vvvv : BitVec 4, ∀ l : Bool,
      (vex3Byte2 ⟨r, x, b, w, vvvv⟩ l).extractLsb' 0 2 = 0b01 ∧ (vex3Byte2 ⟨r, x, b, w, vvvv⟩ l)[2] = l ∧
      (vex3Byte2 ⟨r, x, b, w, vvvv⟩ l)[7] = w ∧ (vex3Byte2 ⟨r, x, b, w, vvvv⟩ l).extractLsb' 3 4 = vvvv := by
    unfold vex3Byte2; decide
  obtain ⟨hmap, hr, hx, hb⟩ := h1 r x b w vvvv
  obtain ⟨hpp, hl, hw, hv⟩ := h2 r x b w vvvv l
  exact ⟨hmap, hpp, hl, by rw [hr, hx, hb, hw, hv]⟩

/-- The stored `R̄` and the bit after it are the two that tell VEX from LES and LDS (R68). -/
theorem vexEscapeOk_vex2 {m : Mode} {v : Vex2} (h : v.fits m = true) (l : Bool) :
    vexEscapeOk m (vex2Byte v l) = true := by
  by_cases hm : m = .long64
  · simp [vexEscapeOk, hm]
  · obtain ⟨r, vvvv⟩ := v
    have hbits : ∀ (r : Bool) (vvvv : BitVec 4) (l : Bool), (!r && vvvv[3]) = true →
        (vex2Byte ⟨r, vvvv⟩ l).extractLsb' 6 2 = 0b11 := by decide
    simp only [Vex2.fits, hm, decide_false, Bool.false_or] at h
    simp [vexEscapeOk, hbits r vvvv l h]

theorem vexEscapeOk_vex3 {m : Mode} {v : Vex3} (h : v.fits m = true) : vexEscapeOk m (vex3Byte1 v) = true := by
  by_cases hm : m = .long64
  · simp [vexEscapeOk, hm]
  · obtain ⟨r, x, b, w, vvvv⟩ := v
    have hbits : ∀ r x b : Bool, ∀ w vvvv, (!r && !x) = true →
        (vex3Byte1 ⟨r, x, b, w, vvvv⟩).extractLsb' 6 2 = 0b11 := by unfold vex3Byte1; decide
    simp only [Vex3.fits, hm, decide_false, Bool.false_or] at h
    simp [vexEscapeOk, hbits r x b w vvvv h]

theorem evexP0_fields (e : Evex) :
    (evexP0 e).extractLsb' 0 2 = 0b01 ∧ (!(evexP0 e)[7]) = e.r ∧ (!(evexP0 e)[6]) = e.x ∧
    (!(evexP0 e)[5]) = e.b ∧ (!(evexP0 e)[4]) = e.rHi ∧ (evexP0 e).extractLsb' 2 2 = e.res := by
  unfold evexP0
  generalize e.r = r, e.x = x, e.b = b, e.rHi = rHi, e.res = res
  revert r x b rHi res; decide

theorem evexP1_fields (e : Evex) :
    (evexP1 e).extractLsb' 0 2 = 0b01 ∧ (evexP1 e)[7] = e.w ∧ (evexP1 e).extractLsb' 3 4 = e.vvvv ∧
    (evexP1 e)[2] = e.fix := by
  unfold evexP1
  generalize e.w = w, e.vvvv = vvvv, e.fix = fix
  revert w vvvv fix; decide

theorem evexP2_fields (e : Evex) (ll : BitVec 2) (b : Bool) :
    (evexP2 e ll b)[7] = e.z ∧ (evexP2 e ll b).extractLsb' 5 2 = ll ∧ (evexP2 e ll b)[4] = b ∧
    (evexP2 e ll b)[3] = e.vHi ∧ (evexP2 e ll b).extractLsb' 0 3 = e.aaa := by
  unfold evexP2
  generalize e.z = z, e.vHi = vHi, e.aaa = aaa
  revert z vHi aaa ll b; decide

/-- The payload is read back from the three bytes (R70). -/
theorem evexOf_encoded (e : Evex) (ll : BitVec 2) (b : Bool) :
    evexOf (evexP0 e) (evexP1 e) (evexP2 e ll b) = e := by
  obtain ⟨_, hr, hx, hb, hrHi, hres⟩ := evexP0_fields e
  obtain ⟨_, hw, hv, hfix⟩ := evexP1_fields e
  obtain ⟨hz, _, _, hvHi, haaa⟩ := evexP2_fields e ll b
  simp only [evexOf, hr, hx, hb, hrHi, hres, hw, hv, hfix, hz, hvHi, haaa]

theorem roundingOfBits_roundingBits (rc : Rounding) : roundingOfBits (roundingBits rc) = rc := by
  cases rc <;> rfl

/-! ### Displacement, operand, prefixes (R62, R76 to R82) -/

theorem le16_bytes (d : BitVec 16) : le16 (d.extractLsb' 0 8) (d.extractLsb' 8 8) = d := by
  unfold le16
  apply BitVec.eq_of_getLsbD_eq
  intro k hk
  grind

theorem le32_bytes (d : BitVec 32) :
    le32 (d.extractLsb' 0 8) (d.extractLsb' 8 8) (d.extractLsb' 16 8) (d.extractLsb' 24 8) = d := by
  unfold le32
  apply BitVec.eq_of_getLsbD_eq
  intro k hk
  grind

theorem takeDisp32_encodeDisp (d : BitVec 32) (rest : List Byte) :
    takeDisp32 (encodeDisp (.disp32 d) ++ rest) = some d :=
  congrArg some (le32_bytes d)

theorem takeDisp16_encodeDisp16 (d : BitVec 16) (rest : List Byte) :
    takeDisp16 (encodeDisp16 (.disp16 d) ++ rest) = some d :=
  congrArg some (le16_bytes d)

theorem dispOf_encodeDisp (d : Disp) (rest : List Byte) :
    dispOf (dispMod d) (encodeDisp d ++ rest) = some d := by
  cases d with
  | none => rfl
  | disp8 d => rfl
  | disp32 d => exact congrArg (Option.map Disp.disp32) (takeDisp32_encodeDisp d rest)

theorem disp16Of_encodeDisp16 (d : Disp16) (rest : List Byte) :
    disp16Of (disp16Mod d) (encodeDisp16 d ++ rest) = some d := by
  cases d with
  | none => rfl
  | disp8 d => rfl
  | disp16 d => exact congrArg (Option.map Disp16.disp16) (takeDisp16_encodeDisp16 d rest)

theorem dispMod_cases (d : Disp) : dispMod d ≠ 0b11 ∧ (dispMod d = 0b00 ↔ d = .none) := by
  cases d <;> simp [dispMod]

theorem disp16Mod_cases (d : Disp16) : disp16Mod d ≠ 0b11 ∧ (disp16Mod d = 0b00 ↔ d = .none) := by
  cases d <;> simp [disp16Mod]

/-- A ModRM byte of a memory form, under 32- or 64-bit addressing. -/
theorem decodeModRm_mem {sz : AddrSize} (hsz : sz ≠ .a16) {mod : BitVec 2} (hmod : mod ≠ 0b11) (reg rm : BitVec 3)
    {bs : List Byte} {a : Addr} (h : decodeAddr mod rm bs = some a) :
    decodeModRm sz (modrmByte mod reg rm :: bs) = some (reg, .mem a) := by
  obtain ⟨hm, hr, hrm⟩ := modrmByte_fields mod reg rm
  simp only [decodeModRm, hm, hr, hrm, hmod, hsz, if_false, h, Option.map_some]

/-- A ModRM byte of a memory form under 16-bit addressing. -/
theorem decodeModRm_mem16 {mod : BitVec 2} (hmod : mod ≠ 0b11) (reg rm : BitVec 3)
    {bs : List Byte} {a : Addr} (h : decodeAddr16 mod rm bs = some a) :
    decodeModRm .a16 (modrmByte mod reg rm :: bs) = some (reg, .mem a) := by
  obtain ⟨hm, hr, hrm⟩ := modrmByte_fields mod reg rm
  simp only [decodeModRm, hm, hr, hrm, hmod, if_false, if_true, h, Option.map_some]

/-- The four readings under 32- or 64-bit addressing (R77, R78). -/
theorem decodeAddr_base {mod : BitVec 2} {rm : BitVec 3} (hrm : rm ≠ 0b100) (h : ¬(mod = 0b00 ∧ rm = 0b101))
    (bs : List Byte) : decodeAddr mod rm bs = (dispOf mod bs).map (.base rm) := by
  rw [decodeAddr.eq_def, if_neg hrm, if_neg h]

theorem decodeAddr_dispOnly (bs : List Byte) : decodeAddr 0b00 0b101 bs = (takeDisp32 bs).map .dispOnly := by
  rw [decodeAddr.eq_def, if_neg (by decide), if_pos ⟨rfl, rfl⟩]

theorem decodeAddr_sib {mod : BitVec 2} {b : BitVec 3} (h : ¬(mod = 0b00 ∧ b = 0b101)) (sc : BitVec 2)
    (i : BitVec 3) (bs : List Byte) :
    decodeAddr mod 0b100 (sibByte sc i b :: bs) = (dispOf mod bs).map (.sib sc i b) := by
  obtain ⟨hsc, hi, hb⟩ := sibByte_fields sc i b
  rw [decodeAddr.eq_def, if_pos rfl]
  simp only [hsc, hi, hb, h, if_false]

theorem decodeAddr_sibNoBase (sc : BitVec 2) (i : BitVec 3) (bs : List Byte) :
    decodeAddr 0b00 0b100 (sibByte sc i 0b101 :: bs) = (takeDisp32 bs).map (.sibNoBase sc i) := by
  obtain ⟨hsc, hi, hb⟩ := sibByte_fields sc i 0b101
  rw [decodeAddr.eq_def, if_pos rfl]
  simp only [hsc, hi, hb, and_self, if_true]

/-- The memory operand is read back (R76 to R82). -/
theorem decodeModRm_encodeAddr {sz : AddrSize} {a : Addr} (h : a.fits sz = true) (reg : BitVec 3) (rest : List Byte) :
    decodeModRm sz (encodeAddr reg a ++ rest) = some (reg, .mem a) := by
  cases a with
  | base rm d =>
    simp only [Addr.fits, decide_eq_true_eq] at h
    obtain ⟨hsz, hrm, hd⟩ := h
    obtain ⟨hmod, hnone⟩ := dispMod_cases d
    refine decodeModRm_mem (bs := encodeDisp d ++ rest) hsz hmod reg rm ?_
    rw [decodeAddr_base hrm fun ⟨h0, h5⟩ => hd ⟨hnone.mp h0, h5⟩, dispOf_encodeDisp]
    rfl
  | dispOnly d =>
    simp only [Addr.fits, decide_eq_true_eq] at h
    refine decodeModRm_mem (bs := encodeDisp (.disp32 d) ++ rest) h (by decide) reg 0b101 ?_
    rw [decodeAddr_dispOnly, takeDisp32_encodeDisp]
    rfl
  | sib sc i b d =>
    simp only [Addr.fits, decide_eq_true_eq] at h
    obtain ⟨hsz, hd⟩ := h
    obtain ⟨hmod, hnone⟩ := dispMod_cases d
    refine decodeModRm_mem (bs := sibByte sc i b :: (encodeDisp d ++ rest)) hsz hmod reg 0b100 ?_
    rw [decodeAddr_sib fun ⟨h0, h5⟩ => hd ⟨hnone.mp h0, h5⟩, dispOf_encodeDisp]
    rfl
  | sibNoBase sc i d =>
    simp only [Addr.fits, decide_eq_true_eq] at h
    refine decodeModRm_mem (bs := sibByte sc i 0b101 :: (encodeDisp (.disp32 d) ++ rest)) h (by decide)
      reg 0b100 ?_
    rw [decodeAddr_sibNoBase, takeDisp32_encodeDisp]
    rfl
  | base16 rm d =>
    simp only [Addr.fits, decide_eq_true_eq] at h
    obtain ⟨rfl, hd⟩ := h
    obtain ⟨hmod, hnone⟩ := disp16Mod_cases d
    refine decodeModRm_mem16 (bs := encodeDisp16 d ++ rest) hmod reg rm ?_
    rw [decodeAddr16, if_neg fun ⟨h0, h6⟩ => hd ⟨hnone.mp h0, h6⟩, disp16Of_encodeDisp16]
    rfl
  | dispOnly16 d =>
    simp only [Addr.fits, decide_eq_true_eq] at h
    subst h
    refine decodeModRm_mem16 (bs := encodeDisp16 (.disp16 d) ++ rest) (by decide) reg 0b110 ?_
    rw [decodeAddr16, if_pos ⟨rfl, rfl⟩, takeDisp16_encodeDisp16]
    rfl

theorem decodeModRm_encodeRm {sz : AddrSize} {rm : Rm} (h : rm.fits sz = true) (reg : BitVec 3) (rest : List Byte) :
    decodeModRm sz (encodeRm reg rm ++ rest) = some (reg, rm) := by
  cases rm with
  | reg n =>
    obtain ⟨hm, hr, hrm⟩ := modrmByte_fields 0b11 reg n
    show decodeModRm sz (modrmByte 0b11 reg n :: rest) = _
    simp only [decodeModRm, hm, hr, hrm, if_true]
  | mem a => exact decodeModRm_encodeAddr h reg rest

theorem prefixOf_prefixByte {m : Mode} {p : Prefix} (h : m = .long64 ∨ p.isRex = false) :
    prefixOf m (prefixByte p) = some p := by
  cases p with
  | rex w r x b =>
    obtain rfl : m = .long64 := by simpa [Prefix.isRex] using h
    revert w r x b; decide
  | seg r => cases r <;> rfl
  | _ => rfl

/-- The prefixes are scanned up to the first byte that is none (R87). -/
theorem takePrefixes_encoded {m : Mode} {pfx : List Prefix} (h : prefixesFit m pfx = true) {v : Byte}
    (hv : prefixOf m v = none) (bs : List Byte) :
    takePrefixes m (pfx.map prefixByte ++ v :: bs) = (pfx, v :: bs) := by
  have hp : ∀ p ∈ pfx, m = .long64 ∨ p.isRex = false := by
    intro p hp
    simp only [prefixesFit, Bool.or_eq_true, decide_eq_true_eq, Bool.not_eq_true', List.any_eq_false] at h
    exact h.imp_right fun hr => by simpa using hr p hp
  clear h
  induction pfx with
  | nil => simp only [List.map_nil, List.nil_append, takePrefixes, hv]
  | cons p ps ih =>
    rw [List.forall_mem_cons] at hp
    simp only [List.map_cons, List.cons_append, takePrefixes, prefixOf_prefixByte hp.1, ih hp.2]

theorem prefixOf_escape (m : Mode) : prefixOf m 0x0F = none ∧ prefixOf m 0xC5 = none ∧ prefixOf m 0xC4 = none ∧
    prefixOf m 0x62 = none := by
  cases m <;> decide

section
variable {m : Mode} {pfx : List Prefix} (h : prefixesFit m pfx = true) (bs : List Byte)
include h

theorem decode_escape_sse : decode m (pfx.map prefixByte ++ 0x0F :: bs) = decodeSse m pfx bs := by
  obtain ⟨hv, _, _, _⟩ := prefixOf_escape m
  rw [decode, takePrefixes_encoded h hv]
  rfl

theorem decode_escape_vexC5 : decode m (pfx.map prefixByte ++ 0xC5 :: bs) = decodeVexC5 m pfx bs := by
  obtain ⟨_, hv, _, _⟩ := prefixOf_escape m
  rw [decode, takePrefixes_encoded h hv]
  rfl

theorem decode_escape_vexC4 : decode m (pfx.map prefixByte ++ 0xC4 :: bs) = decodeVexC4 m pfx bs := by
  obtain ⟨_, _, hv, _⟩ := prefixOf_escape m
  rw [decode, takePrefixes_encoded h hv]
  rfl

theorem decode_escape_evex : decode m (pfx.map prefixByte ++ 0x62 :: bs) = decodeEvex m pfx bs := by
  obtain ⟨_, _, _, hv⟩ := prefixOf_escape m
  rw [decode, takePrefixes_encoded h hv]
  rfl

end

/-! ### The three encoding families read back (R61 to R74) -/

theorem decodeSse_encoded {m : Mode} {pfx : List Prefix} {rm : Rm} (h66 : Prefix.opSize ∈ pfx)
    (hF3 : Prefix.rep ∉ pfx) (hF2 : Prefix.repne ∉ pfx) (hrm : rm.fits (addrSizeOf m pfx) = true)
    (reg : BitVec 3) (rest : List Byte) :
    decodeSse m pfx (0x5A :: (encodeRm reg rm ++ rest)) = .instr (.cvtpd2ps pfx reg rm) := by
  simp [decodeSse, h66, hF3, hF2, decodeModRm_encodeRm hrm reg rest]

theorem decodeVexC5_encoded {m : Mode} {pfx : List Prefix} {v : Vex2} {rm : Rm} (hv : v.fits m = true)
    (hrm : rm.fits (addrSizeOf m pfx) = true) (l : Bool) (reg : BitVec 3) (rest : List Byte) :
    decodeVexC5 m pfx (vex2Byte v l :: 0x5A :: (encodeRm reg rm ++ rest)) =
      .instr (if l then .vcvtpd2psVex256C5 pfx v reg rm else .vcvtpd2psVex128C5 pfx v reg rm) := by
  obtain ⟨hpp, hl, hfields⟩ := vex2Byte_fields v l
  simp only [decodeVexC5, vexEscapeOk_vex2 hv l, hpp, hl, hfields, decodeModRm_encodeRm hrm reg rest]
  cases l <;> rfl

theorem decodeVexC4_encoded {m : Mode} {pfx : List Prefix} {v : Vex3} {rm : Rm} (hv : v.fits m = true)
    (hrm : rm.fits (addrSizeOf m pfx) = true) (l : Bool) (reg : BitVec 3) (rest : List Byte) :
    decodeVexC4 m pfx (vex3Byte1 v :: vex3Byte2 v l :: 0x5A :: (encodeRm reg rm ++ rest)) =
      .instr (if l then .vcvtpd2psVex256C4 pfx v reg rm else .vcvtpd2psVex128C4 pfx v reg rm) := by
  obtain ⟨hmap, hpp, hl, hfields⟩ := vex3Bytes_fields v l
  simp only [decodeVexC4, vexEscapeOk_vex3 hv, hmap, hpp, hl, hfields, decodeModRm_encodeRm hrm reg rest]
  cases l <;> rfl

theorem decodeEvex_encoded {m : Mode} {pfx : List Prefix} {rm : Rm} (hrm : rm.fits (addrSizeOf m pfx) = true)
    (e : Evex) (ll : BitVec 2) (b : Bool) (reg : BitVec 3) (rest : List Byte) :
    decodeEvex m pfx (evexP0 e :: evexP1 e :: evexP2 e ll b :: 0x5A :: (encodeRm reg rm ++ rest)) =
      .instr (evexInstr pfx e ll b reg rm) := by
  obtain ⟨hmap, _⟩ := evexP0_fields e
  obtain ⟨hpp, _⟩ := evexP1_fields e
  obtain ⟨_, hll, hb, _⟩ := evexP2_fields e ll b
  simp only [decodeEvex, hmap, hpp, hll, hb, evexOf_encoded, decodeModRm_encodeRm hrm reg rest]
  rfl

/-- The plain EVEX rows: the `b` bit is the source form's (R73). -/
theorem decode_encodeEvex {m : Mode} {pfx : List Prefix} (hpfx : prefixesFit m pfx = true) {rm : EvexRm}
    (hrm : rm.fits (addrSizeOf m pfx) = true) (e : Evex) (ll : BitVec 2) (reg : BitVec 3) (rest : List Byte) :
    decode m (pfx.map prefixByte ++ (encodeEvex e ll reg rm ++ rest)) =
      .instr (evexInstr.plain pfx e ll reg rm) := by
  cases rm with
  | reg n => exact (decode_escape_evex hpfx _).trans (decodeEvex_encoded (rm := .reg n) rfl e ll false reg rest)
  | mem a => exact (decode_escape_evex hpfx _).trans (decodeEvex_encoded (rm := .mem a) hrm e ll false reg rest)
  | bcst a => exact (decode_escape_evex hpfx _).trans (decodeEvex_encoded (rm := .mem a) hrm e ll true reg rest)

/-- An encoding followed by any bytes decodes to its instruction, in every mode (R83, R87). -/
theorem decode_encode_append {m : Mode} {i : Instr} (h : i.encodable m = true) (rest : List Byte) :
    decode m (encode i ++ rest) = .instr i := by
  rw [encode, List.append_assoc]
  cases i with
  | cvtpd2ps pfx reg rm =>
    simp only [Instr.encodable, Bool.and_eq_true, Bool.not_eq_true', List.contains_eq_mem, decide_eq_true_eq,
      decide_eq_false_iff_not] at h
    obtain ⟨⟨⟨⟨hpfx, h66⟩, hF3⟩, hF2⟩, hrm⟩ := h
    exact (decode_escape_sse hpfx _).trans (decodeSse_encoded h66 hF3 hF2 hrm reg rest)
  | vcvtpd2psVex128C5 pfx v reg rm =>
    simp only [Instr.encodable, Bool.and_eq_true] at h
    obtain ⟨⟨hpfx, hv⟩, hrm⟩ := h
    exact (decode_escape_vexC5 hpfx _).trans (decodeVexC5_encoded hv hrm false reg rest)
  | vcvtpd2psVex128C4 pfx v reg rm =>
    simp only [Instr.encodable, Bool.and_eq_true] at h
    obtain ⟨⟨hpfx, hv⟩, hrm⟩ := h
    exact (decode_escape_vexC4 hpfx _).trans (decodeVexC4_encoded hv hrm false reg rest)
  | vcvtpd2psVex256C5 pfx v reg rm =>
    simp only [Instr.encodable, Bool.and_eq_true] at h
    obtain ⟨⟨hpfx, hv⟩, hrm⟩ := h
    exact (decode_escape_vexC5 hpfx _).trans (decodeVexC5_encoded hv hrm true reg rest)
  | vcvtpd2psVex256C4 pfx v reg rm =>
    simp only [Instr.encodable, Bool.and_eq_true] at h
    obtain ⟨⟨hpfx, hv⟩, hrm⟩ := h
    exact (decode_escape_vexC4 hpfx _).trans (decodeVexC4_encoded hv hrm true reg rest)
  | vcvtpd2psEvex128 pfx e reg rm =>
    simp only [Instr.encodable, Bool.and_eq_true] at h
    exact decode_encodeEvex h.1 h.2 e 0b00 reg rest
  | vcvtpd2psEvex256 pfx e reg rm =>
    simp only [Instr.encodable, Bool.and_eq_true] at h
    exact decode_encodeEvex h.1 h.2 e 0b01 reg rest
  | vcvtpd2psEvex512 pfx e lenRes reg rm =>
    simp only [Instr.encodable, Bool.and_eq_true] at h
    cases lenRes with
    | false => exact decode_encodeEvex h.1 h.2 e 0b10 reg rest
    | true => exact decode_encodeEvex h.1 h.2 e 0b11 reg rest
  | vcvtpd2psEvex512Er pfx e rc reg src =>
    refine (decode_escape_evex h _).trans
      ((decodeEvex_encoded (rm := .reg src) rfl e (roundingBits rc) true reg rest).trans ?_)
    rw [evexInstr, roundingOfBits_roundingBits]

/-- `ilen` of R88 is the number of bytes of the encoding, whatever the instruction. -/
theorem encode_length (i : Instr) : (encode i).length = i.length := by
  cases i with
  | cvtpd2ps => exact Laws.EncodeLength.cvtpd2ps ..
  | vcvtpd2psVex128C5 => exact Laws.EncodeLength.vcvtpd2psVex128C5 ..
  | vcvtpd2psVex128C4 => exact Laws.EncodeLength.vcvtpd2psVex128C4 ..
  | vcvtpd2psVex256C5 => exact Laws.EncodeLength.vcvtpd2psVex256C5 ..
  | vcvtpd2psVex256C4 => exact Laws.EncodeLength.vcvtpd2psVex256C4 ..
  | vcvtpd2psEvex128 => exact Laws.EncodeLength.vcvtpd2psEvex128 ..
  | vcvtpd2psEvex256 => exact Laws.EncodeLength.vcvtpd2psEvex256 ..
  | vcvtpd2psEvex512 => exact Laws.EncodeLength.vcvtpd2psEvex512 ..
  | vcvtpd2psEvex512Er => exact Laws.EncodeLength.vcvtpd2psEvex512Er ..

/-! ### An encoding at the program counter -/

/-- The fetch begins with every list that agrees with its first bytes. -/
theorem State.fetchBytes_begins {s : State} {bytes : List Byte} (hlen : bytes.length ≤ 15)
    (h : ∀ t < bytes.length, bytes[t]? = some (Memory.readByte s.mem (s.fetchAddr t).toNat)) :
    bytes <+: s.fetchBytes := by
  rw [List.prefix_iff_getElem?]
  intro t ht
  rw [← List.getElem?_eq_getElem ht, h t ht, State.fetchBytes, List.getElem?_map,
    List.getElem?_range (by omega : t < 15)]
  rfl

/-- Settles O6: the fetched bytes begin with the encoding. -/
theorem fetchedEncodingDecodes : Obligations.FetchedEncodingDecodes := by
  unfold Obligations.FetchedEncodingDecodes
  intro s i henc hlen hbytes
  rw [← encode_length] at hlen hbytes
  obtain ⟨rest, hrest⟩ := State.fetchBytes_begins hlen hbytes
  rw [← hrest]
  exact decode_encode_append henc rest

/-- With every SIMD exception masked nothing detected is unmasked. -/
theorem State.quiet_of_allMasked {s : State} (h : s.mxcsr.extractLsb' 7 6 = 63) (i : Instr) : s.quiet i := by
  unfold State.quiet State.unmasked
  rw [h]
  exact BitVec.and_zero

/-- A ready form with a readable operand and nothing unmasked completes (R120, R121). -/
theorem exec_completes {s : State} {i : Instr} (hready : s.ready i) (hsrc : s.sourceReadable i)
    (hq : s.quiet i) : ∃ flags v, exec i s = .next (s.completed i (dstOf s.mode i) flags v) := by
  rw [exec_ready hready, s.sourceOf_readable i hsrc]
  dsimp only
  cases her : erOf i with
  | some rc => exact ⟨0, _, congrArg Host.Outcome.next (s.convertAndWrite_er i rc _ _)⟩
  | none =>
    obtain ⟨hpre, hpost⟩ := State.quiet_both hq
    rw [s.convertAndWrite_plain, if_neg (not_not_intro hpre), if_neg (not_not_intro hpost)]
    exact ⟨_, _, rfl⟩

/-- Without single-step, and with no breakpoint for the operand, the boundary is silent (R214). -/
theorem State.boundary_quiet {s t : State} {i : Instr} (htf : t.rflags[8] = false)
    (hbp : s.memOperand i = none ∨ t.dr7.extractLsb' 0 8 = 0) : t.boundary i = t := by
  have hno : ¬(t.dr7.extractLsb' 0 8 ≠ 0 ∧ s.memOperand i ≠ none) :=
    fun ⟨h1, h2⟩ => hbp.elim h2 h1
  rw [State.boundary_eq s t i, htf, if_neg hno]
  simp

/-- Settles O9: the instruction is decoded, completes, and the boundary raises nothing. -/
theorem launchedInstructionRuns : Obligations.LaunchedInstructionRuns := by
  unfold Obligations.LaunchedInstructionRuns
  intro s i hr henc hbytes hfetch hready hsrc hmask htf hbp
  have hd := fetchedEncodingDecodes s i henc hready.1 hbytes
  obtain ⟨flags, v, hx⟩ := exec_completes hready hsrc (State.quiet_of_allMasked hmask i)
  have hstep : step s = .next (s.completed i (dstOf s.mode i) flags v) := by
    rw [step_of_decoded hr hd hfetch, hx]
    exact congrArg Host.Outcome.next (State.boundary_quiet (s := s) htf hbp)
  refine ⟨⟨_, hstep, hr⟩, fun t ht => ?_⟩
  rw [hstep] at ht
  cases ht
  rfl

end Sys2Proof.Machine
end

section
/-! SUPPORT. 20_memory.md: the bytes a memory read assembles, and what an operand that cannot be read
answers: the segment fault, the refusal of device memory, and that nothing else stops an execution. -/

namespace Sys2Proof.Machine

/-! ### The bytes of a read (R40, R48) -/

/-- Byte `t` of a read is the operand's byte at offset `t`. -/
theorem State.extractLsb'_memRead (s : State) (lin : Word64) {n t : Nat} (hn : n ≤ 64) (ht : t < n) :
    (s.memRead lin n).extractLsb' (8 * t) 8 = s.operandByte lin t := by
  apply BitVec.eq_of_getLsbD_eq
  intro b hb
  have hbit : 8 * t + b < 8 * n := by omega
  have hdiv : (8 * t + b) / 8 = t := by omega
  have hmod : (8 * t + b) % 8 = b := by omega
  simp [s.memRead_getLsbD lin n _ hn, hb, hbit, hdiv, hmod]

/-- A read of `n` bytes has no bit above them. -/
theorem State.memRead_ushiftRight (s : State) (lin : Word64) {n : Nat} (hn : n ≤ 64) :
    s.memRead lin n >>> (8 * n) = 0 := by
  apply BitVec.eq_of_getLsbD_eq
  intro b _
  have hbit : ¬ 8 * n + b < 8 * n := by omega
  simp [s.memRead_getLsbD lin n _ hn, hbit]

/-- Offsets add up: an address wraps once, after the sum (log 15). -/
theorem State.byteAddr_add (s : State) (lin : Word64) (d t : Nat) :
    s.byteAddr (lin + BitVec.ofNat 64 d) t = s.byteAddr lin (d + t) := by
  rw [State.byteAddr, State.byteAddr, BitVec.ofNat_add, BitVec.add_assoc]

/-- Element `j` of an operand is the first element of the one that begins there. -/
theorem State.elementAt_add (s : State) (lin : Word64) (j : Nat) :
    s.elementAt (lin + BitVec.ofNat 64 (8 * j)) 0 = s.elementAt lin j := by
  simp only [State.elementAt, State.operandByte, s.byteAddr_add, Nat.mul_zero, Nat.zero_add, Nat.add_zero]

/-- Settles O48: a read byte by byte, then element by element. -/
theorem memReadLittleEndian : Obligations.MemReadLittleEndian := by
  unfold Obligations.MemReadLittleEndian
  intro s lin n hn
  refine ⟨fun t ht => s.extractLsb'_memRead lin hn ht, s.memRead_ushiftRight lin hn, fun j hj => ?_⟩
  rw [s.elem64_memRead lin hn hj, s.elem64_memRead _ (by omega) (by omega), s.elementAt_add]

/-! ### The segment and canonical check (R49, R197, R205 step 5) -/

/-- A byte fails step 5 of R205 when it is not canonical in 64-bit mode, or a segment region holds it. -/
theorem State.segmentFault_iff (s : State) (a : Word64) :
    s.segmentFault a = true ↔
      (s.mode = .long64 ∧ a.extractLsb' 47 17 ≠ 0 ∧ a.extractLsb' 47 17 ≠ BitVec.allOnes 17) ∨
        ∃ r ∈ s.cfg.memFault, r.kind = .segment ∧ r.base ≤ a.toNat ∧ a.toNat < r.base + r.size := by
  have hcanon : (!canonical a) = true ↔
      a.extractLsb' 47 17 ≠ 0 ∧ a.extractLsb' 47 17 ≠ BitVec.allOnes 17 := by
    simp only [canonical, Bool.not_eq_true', decide_eq_false_iff_not, not_or, ne_eq]
  have hregion (r : Region) : (regionCovers r a.toNat && decide (r.kind = .segment)) = true ↔
      r.kind = .segment ∧ r.base ≤ a.toNat ∧ a.toNat < r.base + r.size := by
    simp only [regionCovers, Bool.and_eq_true, decide_eq_true_eq]
    exact and_comm
  simp only [State.segmentFault, Bool.or_eq_true, Bool.and_eq_true, decide_eq_true_eq, List.any_eq_true,
    hcanon, hregion]

/-- One byte that fails the segment check makes its element fail it. -/
theorem State.segmentOk_eq_false {s : State} {lin : Word64} {j t : Nat} (ht : t < 8)
    (h : s.segmentFault (s.byteAddr lin (8 * j + t)) = true) : s.segmentOk lin j = false := by
  rw [State.segmentOk, List.all_eq_false]
  exact ⟨t, List.mem_range.mpr ht, by simp [h]⟩

/-- A needed element is one of the operand's. -/
theorem State.lt_elems_of_needsElement {s : State} {i : Instr} {p : MemOperand} {j : Nat}
    (h : s.needsElement i p j = true) : j < p.elems := by
  simp only [State.needsElement, Bool.and_eq_true, decide_eq_true_eq] at h
  exact h.1

/-- Behind F-SSE's alignment, a needed element that fails the segment check decides the operand's exception
(R205 steps 4 and 5). -/
theorem State.faultOf_of_segmentFault {s : State} {i : Instr} {p : MemOperand} {j : Nat}
    (halign : p.align16 = true → p.lin.toNat % 16 = 0) (hneed : s.needsElement i p j = true)
    (hseg : s.segmentOk p.lin j = false) : s.faultOf i p = some (if p.seg = .ss then .ss else .gp) := by
  have haligned : ¬ (p.align16 && decide (p.lin.toNat % 16 ≠ 0)) = true := by
    simpa only [Bool.and_eq_true, decide_eq_true_eq, not_and, not_not] using halign
  have hany : (s.neededBytes p.lin 0 (s.neededOf i p)).any s.segmentFault = true :=
    (s.any_segmentFault p.lin (s.needsElement i p) p.elems).mpr
      ⟨j, State.lt_elems_of_needsElement hneed, hneed, hseg⟩
  rw [State.faultOf, State.memoryFault, if_neg haligned, if_pos hany]

/-- Past steps 1 to 3 of R205 the operand's exception is the execution's. -/
theorem exec_raises_faultOf {s : State} {i : Instr} {p : MemOperand} {e : Exn} (hready : s.ready i)
    (hp : s.memOperand i = some p) (hf : s.faultOf i p = some e) : exec i s = .next (s.raise e) := by
  rw [exec_ready hready, s.sourceOf_mem i p hp, hf]

/-- Settles O21: the byte fails the segment check of its element. -/
theorem segmentFaultRaised : Obligations.SegmentFaultRaised := by
  unfold Obligations.SegmentFaultRaised
  rintro s i p hready hp halign ⟨j, t, hneed, ht, hbyte⟩
  have hseg : s.segmentOk p.lin j = false := State.segmentOk_eq_false ht ((s.segmentFault_iff _).mpr hbyte)
  exact exec_raises_faultOf hready hp (State.faultOf_of_segmentFault halign hneed hseg)

/-! ### Device memory (R46) -/

/-- The only refusal of an operand is that of device memory, and it meets exactly the operands with a
touched element that is not in ordinary memory. -/
theorem State.memoryRefusal_eq_some_iff (s : State) (i : Instr) (p : MemOperand) (why : Refusal) :
    s.memoryRefusal p.lin (s.touchedOf i p) = some why ↔
      why = .deviceMemory ∧ ¬ s.operandOrdinary i p := by
  have htouched : (s.neededBytes p.lin 0 (s.touchedOf i p)).any s.deviceByte = true ↔
      ¬ s.operandOrdinary i p := by
    rw [State.touchedOf, s.any_deviceByte p.lin (fun _ => !p.bcst || s.anyActive i) p.elems]
    simp [State.operandOrdinary, imp_iff_not_or]
  rw [State.memoryRefusal, ← htouched, Option.ite_none_right_eq_some, Option.some.injEq, and_comm, eq_comm]

/-- Settles O27: the operand raises nothing, so its refusal is the answer. -/
theorem deviceMemoryRefused : Obligations.DeviceMemoryRefused := by
  unfold Obligations.DeviceMemoryRefused
  rintro s i p hready hp hacc ⟨j, hj, htouched, hdev⟩
  have hnot : ¬ s.operandOrdinary i p := fun hord => by simp [hord j hj htouched] at hdev
  rw [exec_ready hready, s.sourceOf_mem i p hp, (s.faultOf_none i p).mpr hacc,
    (s.memoryRefusal_eq_some_iff i p _).mpr ⟨rfl, hnot⟩]

/-- A source is refused only for an operand in device memory. -/
theorem State.sourceOf_eq_refuse {s : State} {i : Instr} {why : Refusal} (h : s.sourceOf i = .refuse why) :
    why = .deviceMemory ∧ ∃ p, s.memOperand i = some p ∧ ¬ s.operandOrdinary i p := by
  cases hm : s.memOperand i with
  | none => rw [s.sourceOf_reg i hm] at h; cases h
  | some p =>
    rw [s.sourceOf_mem i p hm] at h
    cases hf : s.faultOf i p with
    | some e => rw [hf] at h; cases h
    | none =>
      rw [hf] at h
      cases hr : s.memoryRefusal p.lin (s.touchedOf i p) with
      | none => simp only [hr] at h; cases h
      | some why' =>
        simp only [hr] at h
        cases h
        obtain ⟨hwhy, hnot⟩ := (s.memoryRefusal_eq_some_iff i p _).mp hr
        exact ⟨hwhy, p, rfl, hnot⟩

/-- Settles O28: of the ways an execution ends only the refusal of its source is no next state. -/
theorem execGoesOn : Obligations.ExecGoesOn := by
  unfold Obligations.ExecGoesOn
  intro s i
  rw [exec_eq_execute]
  rcases s.execute_cases i.length (s.udOf i) (s.sourceOf i) (erOf i) (dstOf s.mode i) (writeOf i) with
    ⟨_, hx⟩ | ⟨_, _, hx⟩ | ⟨_, _, _, hx⟩ | ⟨_, _, _, ⟨e, _, hx⟩ | ⟨why, hs, hx⟩ | ⟨lanes, _, hx⟩⟩
  · exact .inl ⟨_, hx⟩
  · exact .inl ⟨_, hx⟩
  · exact .inl ⟨_, hx⟩
  · exact .inl ⟨_, hx⟩
  · obtain ⟨rfl, hp⟩ := State.sourceOf_eq_refuse hs
    exact .inr ⟨hx, hp⟩
  · exact .inl ⟨_, hx⟩

end Sys2Proof.Machine
end

section
/-! SUPPORT. 30_encoding.md: the bytes that a reading was read from, so that decoding and encoding are
inverse; the neighbours of opcode 5A; the length limit; and the two spellings of VEX. -/

namespace Sys2Proof.Machine

/-! ### The bytes that fields were read from (R64, R65, R70, R73, R76, R77, R79) -/

theorem modrmByte_of_fields (v : Byte) :
    modrmByte (v.extractLsb' 6 2) (v.extractLsb' 3 3) (v.extractLsb' 0 3) = v := by
  revert v; decide

theorem sibByte_of_fields (v : Byte) :
    sibByte (v.extractLsb' 6 2) (v.extractLsb' 3 3) (v.extractLsb' 0 3) = v :=
  modrmByte_of_fields v

theorem vex2Byte_of_fields {v : Byte} (hpp : v.extractLsb' 0 2 = 0b01) :
    vex2Byte ⟨!v[7], v.extractLsb' 3 4⟩ v[2] = v := by
  revert v; decide

theorem vex3Byte1_of_fields {v : Byte} (hmap : v.extractLsb' 0 5 = 0b00001) (w : Bool) (vvvv : BitVec 4) :
    vex3Byte1 ⟨!v[7], !v[6], !v[5], w, vvvv⟩ = v := by
  simp only [vex3Byte1]
  revert v; decide

theorem vex3Byte2_of_fields {v : Byte} (hpp : v.extractLsb' 0 2 = 0b01) (r x b : Bool) :
    vex3Byte2 ⟨r, x, b, v[7], v.extractLsb' 3 4⟩ v[2] = v := by
  simp only [vex3Byte2]
  revert v; decide

theorem evexP0_evexOf {p0 : Byte} (hmap : p0.extractLsb' 0 2 = 0b01) (p1 p2 : Byte) :
    evexP0 (evexOf p0 p1 p2) = p0 := by
  simp only [evexP0, evexOf]
  revert p0; decide

theorem evexP1_evexOf {p1 : Byte} (hpp : p1.extractLsb' 0 2 = 0b01) (p0 p2 : Byte) :
    evexP1 (evexOf p0 p1 p2) = p1 := by
  simp only [evexP1, evexOf]
  revert p1; decide

theorem evexP2_evexOf (p0 p1 p2 : Byte) :
    evexP2 (evexOf p0 p1 p2) (p2.extractLsb' 5 2) p2[4] = p2 := by
  simp only [evexP2, evexOf]
  revert p2; decide

theorem roundingBits_roundingOfBits (v : BitVec 2) : roundingBits (roundingOfBits v) = v := by
  revert v; decide

theorem le16_fields (b0 b1 : Byte) :
    (le16 b0 b1).extractLsb' 0 8 = b0 ∧ (le16 b0 b1).extractLsb' 8 8 = b1 := by
  unfold le16
  constructor <;> apply BitVec.eq_of_getLsbD_eq <;> intro k hk <;> grind

theorem le32_fields (b0 b1 b2 b3 : Byte) :
    (le32 b0 b1 b2 b3).extractLsb' 0 8 = b0 ∧ (le32 b0 b1 b2 b3).extractLsb' 8 8 = b1 ∧
    (le32 b0 b1 b2 b3).extractLsb' 16 8 = b2 ∧ (le32 b0 b1 b2 b3).extractLsb' 24 8 = b3 := by
  unfold le32
  refine ⟨?_, ?_, ?_, ?_⟩ <;> apply BitVec.eq_of_getLsbD_eq <;> intro k hk <;> grind

/-- The byte that tells VEX from LES and LDS outside 64-bit mode has its two high bits set (R68). -/
theorem vexEscapeOk_bits {m : Mode} {v : Byte} (h : vexEscapeOk m v = true) :
    m = .long64 ∨ (v[7] = true ∧ v[6] = true) := by
  have hbits : ∀ v : Byte, v.extractLsb' 6 2 = 0b11 → v[7] = true ∧ v[6] = true := by decide
  exact (of_decide_eq_true h).imp_right (hbits v)

theorem vexEscapeOk_fits_vex2 {m : Mode} {v : Byte} (h : vexEscapeOk m v = true) :
    Vex2.fits m ⟨!v[7], v.extractLsb' 3 4⟩ = true := by
  rcases vexEscapeOk_bits h with hm | ⟨h7, h6⟩
  · simp [Vex2.fits, hm]
  · simp [Vex2.fits, h7, h6]

theorem vexEscapeOk_fits_vex3 {m : Mode} {v : Byte} (h : vexEscapeOk m v = true) (b w : Bool) (vvvv : BitVec 4) :
    Vex3.fits m ⟨!v[7], !v[6], b, w, vvvv⟩ = true := by
  rcases vexEscapeOk_bits h with hm | ⟨h7, h6⟩
  · simp [Vex3.fits, hm]
  · simp [Vex3.fits, h7, h6]

/-! ### The bytes that prefixes, displacement and operand were read from (R62, R63, R76 to R82, R87) -/

theorem prefixByte_of_legacyPrefix {v : Byte} {p : Prefix} (h : legacyPrefix v = some p) :
    prefixByte p = v ∧ p.isRex = false := by
  have hread : ∀ v : Byte, ∀ p ∈ legacyPrefix v, prefixByte p = v ∧ p.isRex = false := by decide
  exact hread v p h

theorem prefixByte_of_prefixOf {m : Mode} {v : Byte} {p : Prefix} (h : prefixOf m v = some p) :
    prefixByte p = v ∧ (m = .long64 ∨ p.isRex = false) := by
  have hrex : ∀ v : Byte, v.extractLsb' 4 4 = 0b0100 → prefixByte (.rex v[3] v[2] v[1] v[0]) = v := by decide
  unfold prefixOf at h
  split at h
  · next q hq =>
    cases h
    exact (prefixByte_of_legacyPrefix hq).imp_right .inr
  · obtain ⟨⟨hm, hv⟩, hp⟩ := Option.ite_none_right_eq_some.mp h
    cases hp
    exact ⟨hrex v hv, .inl hm⟩

/-- REX is the one that has to fit the mode (R63). -/
theorem prefixesFit_iff (m : Mode) (pfx : List Prefix) :
    prefixesFit m pfx = true ↔ ∀ p ∈ pfx, m = .long64 ∨ p.isRex = false := by
  simp only [prefixesFit, Bool.or_eq_true, decide_eq_true_eq, Bool.not_eq_true', List.any_eq_false]
  by_cases hm : m = .long64 <;> simp [hm]

/-- The scan keeps every byte: those of the prefixes it read, then the rest (R87). -/
theorem takePrefixes_spec (m : Mode) (bytes : List Byte) :
    (takePrefixes m bytes).1.map prefixByte ++ (takePrefixes m bytes).2 = bytes ∧
    prefixesFit m (takePrefixes m bytes).1 = true := by
  rw [prefixesFit_iff]
  induction bytes with
  | nil => simp [takePrefixes]
  | cons v bs ih =>
    unfold takePrefixes
    split
    · next p hp =>
      obtain ⟨hbyte, hrex⟩ := prefixByte_of_prefixOf hp
      exact ⟨by simp only [List.map_cons, List.cons_append, hbyte, ih.1], List.forall_mem_cons.mpr ⟨hrex, ih.2⟩⟩
    · simp

theorem encodeDisp_of_takeDisp32 {bs : List Byte} {d : BitVec 32} (h : takeDisp32 bs = some d) :
    encodeDisp (.disp32 d) <+: bs := by
  match bs, h with
  | b0 :: b1 :: b2 :: b3 :: rest, rfl =>
    obtain ⟨h0, h1, h2, h3⟩ := le32_fields b0 b1 b2 b3
    exact ⟨rest, by simp only [encodeDisp, h0, h1, h2, h3, List.cons_append, List.nil_append]⟩

theorem encodeDisp16_of_takeDisp16 {bs : List Byte} {d : BitVec 16} (h : takeDisp16 bs = some d) :
    encodeDisp16 (.disp16 d) <+: bs := by
  match bs, h with
  | b0 :: b1 :: rest, rfl =>
    obtain ⟨h0, h1⟩ := le16_fields b0 b1
    exact ⟨rest, by simp only [encodeDisp16, h0, h1, List.cons_append, List.nil_append]⟩

theorem takeDisp8_eq_some {bs : List Byte} {d : Byte} (h : takeDisp8 bs = some d) : [d] <+: bs := by
  match bs, h with
  | b0 :: rest, rfl => exact ⟨rest, rfl⟩

theorem mod_eq_two_of_ne {mod : BitVec 2} (h0 : mod ≠ 0b00) (h1 : mod ≠ 0b01) (h3 : mod ≠ 0b11) : mod = 0b10 := by
  revert mod; decide

/-- A displacement comes from its own `mod` and its own bytes (R78, R79). -/
theorem dispOf_eq_some {mod : BitVec 2} {bs : List Byte} {d : Disp} (hmod : mod ≠ 0b11)
    (h : dispOf mod bs = some d) : dispMod d = mod ∧ encodeDisp d <+: bs := by
  unfold dispOf at h
  split_ifs at h with h0 h1
  · cases h
    exact ⟨h0.symm, List.nil_prefix⟩
  · obtain ⟨d8, hd, rfl⟩ := Option.map_eq_some_iff.mp h
    exact ⟨h1.symm, takeDisp8_eq_some hd⟩
  · obtain ⟨d32, hd, rfl⟩ := Option.map_eq_some_iff.mp h
    exact ⟨(mod_eq_two_of_ne h0 h1 hmod).symm, encodeDisp_of_takeDisp32 hd⟩

theorem disp16Of_eq_some {mod : BitVec 2} {bs : List Byte} {d : Disp16} (hmod : mod ≠ 0b11)
    (h : disp16Of mod bs = some d) : disp16Mod d = mod ∧ encodeDisp16 d <+: bs := by
  unfold disp16Of at h
  split_ifs at h with h0 h1
  · cases h
    exact ⟨h0.symm, List.nil_prefix⟩
  · obtain ⟨d8, hd, rfl⟩ := Option.map_eq_some_iff.mp h
    exact ⟨h1.symm, takeDisp8_eq_some hd⟩
  · obtain ⟨d16, hd, rfl⟩ := Option.map_eq_some_iff.mp h
    exact ⟨(mod_eq_two_of_ne h0 h1 hmod).symm, encodeDisp16_of_takeDisp16 hd⟩

/-- An operand with a SIB byte comes from its own bytes: without a base register exactly under `mod = 00b` and
`base = 101b` (R77, R78). -/
theorem decodeAddr_sib_eq_some {mod : BitVec 2} {sc : BitVec 2} {ix b : BitVec 3} {bs : List Byte} {a : Addr}
    {sz : AddrSize} (hsz : sz ≠ .a16) (hmod : mod ≠ 0b11) (h : decodeAddr mod 0b100 (sibByte sc ix b :: bs) = some a)
    (reg : BitVec 3) :
    a.fits sz = true ∧ encodeAddr reg a <+: modrmByte mod reg 0b100 :: sibByte sc ix b :: bs := by
  by_cases h05 : mod = 0b00 ∧ b = 0b101
  · obtain ⟨rfl, rfl⟩ := h05
    rw [decodeAddr_sibNoBase] at h
    obtain ⟨d, hd, rfl⟩ := Option.map_eq_some_iff.mp h
    exact ⟨by simp [Addr.fits, hsz], by simpa [encodeAddr] using encodeDisp_of_takeDisp32 hd⟩
  · rw [decodeAddr_sib h05] at h
    obtain ⟨d, hd, rfl⟩ := Option.map_eq_some_iff.mp h
    obtain ⟨rfl, hbs⟩ := dispOf_eq_some hmod hd
    rw [(dispMod_cases d).2] at h05
    exact ⟨decide_eq_true ⟨hsz, h05⟩, by simpa [encodeAddr] using hbs⟩

/-- An operand under 32- or 64-bit addressing comes from its own bytes (R76 to R80). -/
theorem decodeAddr_eq_some {mod : BitVec 2} {rm : BitVec 3} {bs : List Byte} {a : Addr} {sz : AddrSize}
    (hsz : sz ≠ .a16) (hmod : mod ≠ 0b11) (h : decodeAddr mod rm bs = some a) (reg : BitVec 3) :
    a.fits sz = true ∧ encodeAddr reg a <+: modrmByte mod reg rm :: bs := by
  by_cases h4 : rm = 0b100
  · subst h4
    match bs with
    | [] => cases h
    | sib :: bs =>
      rw [← sibByte_of_fields sib] at h ⊢
      exact decodeAddr_sib_eq_some hsz hmod h reg
  · by_cases h05 : mod = 0b00 ∧ rm = 0b101
    · obtain ⟨rfl, rfl⟩ := h05
      rw [decodeAddr_dispOnly] at h
      obtain ⟨d, hd, rfl⟩ := Option.map_eq_some_iff.mp h
      exact ⟨decide_eq_true hsz, by simpa [encodeAddr] using encodeDisp_of_takeDisp32 hd⟩
    · rw [decodeAddr_base h4 h05] at h
      obtain ⟨d, hd, rfl⟩ := Option.map_eq_some_iff.mp h
      obtain ⟨rfl, hbs⟩ := dispOf_eq_some hmod hd
      rw [(dispMod_cases d).2] at h05
      exact ⟨decide_eq_true ⟨hsz, h4, h05⟩, by simpa [encodeAddr] using hbs⟩

/-- An operand under 16-bit addressing comes from its own bytes (R82). -/
theorem decodeAddr16_eq_some {mod : BitVec 2} {rm : BitVec 3} {bs : List Byte} {a : Addr}
    (hmod : mod ≠ 0b11) (h : decodeAddr16 mod rm bs = some a) (reg : BitVec 3) :
    a.fits .a16 = true ∧ encodeAddr reg a <+: modrmByte mod reg rm :: bs := by
  unfold decodeAddr16 at h
  split_ifs at h with h06
  · obtain ⟨rfl, rfl⟩ := h06
    obtain ⟨d, hd, rfl⟩ := Option.map_eq_some_iff.mp h
    exact ⟨rfl, by simpa [encodeAddr] using encodeDisp16_of_takeDisp16 hd⟩
  · obtain ⟨d, hd, rfl⟩ := Option.map_eq_some_iff.mp h
    obtain ⟨rfl, hbs⟩ := disp16Of_eq_some hmod hd
    rw [(disp16Mod_cases d).2] at h06
    exact ⟨decide_eq_true ⟨rfl, h06⟩, by simpa [encodeAddr] using hbs⟩

/-- The converse of `decodeModRm_encodeRm`. -/
theorem decodeModRm_eq_some {sz : AddrSize} {bs : List Byte} {reg : BitVec 3} {rm : Rm}
    (h : decodeModRm sz bs = some (reg, rm)) : rm.fits sz = true ∧ encodeRm reg rm <+: bs := by
  match bs with
  | [] => cases h
  | v :: bs =>
    simp only [decodeModRm] at h
    rw [← modrmByte_of_fields v]
    split_ifs at h with h3 hsz
    · cases h
      rw [h3]
      exact ⟨rfl, bs, rfl⟩
    · obtain ⟨a, ha, heq⟩ := Option.map_eq_some_iff.mp h
      cases heq
      subst hsz
      exact decodeAddr16_eq_some h3 ha _
    · obtain ⟨a, ha, heq⟩ := Option.map_eq_some_iff.mp h
      cases heq
      exact decodeAddr_eq_some hsz h3 ha _

/-! ### The bytes that each family was read from (R61 to R74, R83) -/

/-- A reading is past each guard that rejects. -/
theorem instr_past_guard {c : Prop} [Decidable c] {why : Reject} {d : Decoded} {i : Instr}
    (h : (if c then .notThis why else d) = .instr i) : ¬c ∧ d = .instr i := by
  split_ifs at h with hc
  exact ⟨hc, h⟩

/-- The converse of `decodeSse_encoded`. -/
theorem decodeSse_eq_instr {m : Mode} {pfx : List Prefix} {bs : List Byte} {i : Instr}
    (h : decodeSse m pfx bs = .instr i) :
    ∃ reg rm rest, bs = 0x5A :: (encodeRm reg rm ++ rest) ∧ i = .cvtpd2ps pfx reg rm ∧ Prefix.opSize ∈ pfx ∧
      Prefix.rep ∉ pfx ∧ Prefix.repne ∉ pfx ∧ rm.fits (addrSizeOf m pfx) = true := by
  obtain _ | ⟨op, bs⟩ := bs
  · cases h
  replace ⟨hop, h⟩ := instr_past_guard h
  replace ⟨hrep, h⟩ := instr_past_guard h
  replace ⟨hrepne, h⟩ := instr_past_guard h
  replace ⟨h66, h⟩ := instr_past_guard h
  split at h
  · cases h
  next reg rm hmodrm =>
  obtain ⟨hrm, rest, rfl⟩ := decodeModRm_eq_some hmodrm
  cases h
  exact ⟨reg, rm, rest, by rw [not_not.mp hop], rfl, by simpa using h66, by simpa using hrep,
    by simpa using hrepne, hrm⟩

/-- The converse of `decodeVexC5_encoded`. -/
theorem decodeVexC5_eq_instr {m : Mode} {pfx : List Prefix} {bs : List Byte} {i : Instr}
    (h : decodeVexC5 m pfx bs = .instr i) :
    ∃ v l reg rm rest, bs = vex2Byte v l :: 0x5A :: (encodeRm reg rm ++ rest) ∧
      i = (if l then .vcvtpd2psVex256C5 pfx v reg rm else .vcvtpd2psVex128C5 pfx v reg rm) ∧
      v.fits m = true ∧ rm.fits (addrSizeOf m pfx) = true := by
  obtain _ | ⟨v1, bs⟩ := bs
  · cases h
  replace ⟨hesc, h⟩ := instr_past_guard h
  replace ⟨hpp, h⟩ := instr_past_guard h
  obtain _ | ⟨op, bs⟩ := bs
  · cases h
  replace ⟨hop, h⟩ := instr_past_guard h
  split at h
  · cases h
  next reg rm hmodrm =>
  obtain ⟨hrm, rest, rfl⟩ := decodeModRm_eq_some hmodrm
  refine ⟨⟨!v1[7], v1.extractLsb' 3 4⟩, v1[2], reg, rm, rest, ?_, ?_,
    vexEscapeOk_fits_vex2 (by simpa using hesc), hrm⟩
  · rw [vex2Byte_of_fields (not_not.mp hpp), not_not.mp hop]
  · rw [← apply_ite Decoded.instr] at h
    exact (Decoded.instr.inj h).symm

/-- The converse of `decodeVexC4_encoded`. -/
theorem decodeVexC4_eq_instr {m : Mode} {pfx : List Prefix} {bs : List Byte} {i : Instr}
    (h : decodeVexC4 m pfx bs = .instr i) :
    ∃ v l reg rm rest, bs = vex3Byte1 v :: vex3Byte2 v l :: 0x5A :: (encodeRm reg rm ++ rest) ∧
      i = (if l then .vcvtpd2psVex256C4 pfx v reg rm else .vcvtpd2psVex128C4 pfx v reg rm) ∧
      v.fits m = true ∧ rm.fits (addrSizeOf m pfx) = true := by
  obtain _ | ⟨v1, bs⟩ := bs
  · cases h
  replace ⟨hesc, h⟩ := instr_past_guard h
  replace ⟨hmap, h⟩ := instr_past_guard h
  obtain _ | ⟨v2, bs⟩ := bs
  · cases h
  replace ⟨hpp, h⟩ := instr_past_guard h
  obtain _ | ⟨op, bs⟩ := bs
  · cases h
  replace ⟨hop, h⟩ := instr_past_guard h
  split at h
  · cases h
  next reg rm hmodrm =>
  obtain ⟨hrm, rest, rfl⟩ := decodeModRm_eq_some hmodrm
  refine ⟨⟨!v1[7], !v1[6], !v1[5], v2[7], v2.extractLsb' 3 4⟩, v2[2], reg, rm, rest, ?_, ?_,
    vexEscapeOk_fits_vex3 (by simpa using hesc) _ _ _, hrm⟩
  · rw [vex3Byte1_of_fields (not_not.mp hmap), vex3Byte2_of_fields (not_not.mp hpp), not_not.mp hop]
  · rw [← apply_ite Decoded.instr] at h
    exact (Decoded.instr.inj h).symm

/-- The converse of `decodeEvex_encoded`. -/
theorem decodeEvex_eq_instr {m : Mode} {pfx : List Prefix} {bs : List Byte} {i : Instr}
    (h : decodeEvex m pfx bs = .instr i) :
    ∃ e ll b reg rm rest, bs = evexP0 e :: evexP1 e :: evexP2 e ll b :: 0x5A :: (encodeRm reg rm ++ rest) ∧
      i = evexInstr pfx e ll b reg rm ∧ rm.fits (addrSizeOf m pfx) = true := by
  obtain _ | ⟨p0, bs⟩ := bs
  · cases h
  replace ⟨hmap, h⟩ := instr_past_guard h
  obtain _ | ⟨p1, bs⟩ := bs
  · cases h
  replace ⟨hpp, h⟩ := instr_past_guard h
  obtain _ | ⟨p2, _ | ⟨op, bs⟩⟩ := bs
  · cases h
  · cases h
  replace ⟨hop, h⟩ := instr_past_guard h
  split at h
  · cases h
  next reg rm hmodrm =>
  obtain ⟨hrm, rest, rfl⟩ := decodeModRm_eq_some hmodrm
  cases h
  refine ⟨evexOf p0 p1 p2, p2.extractLsb' 5 2, p2[4], reg, rm, rest, ?_, rfl, hrm⟩
  rw [evexP0_evexOf (not_not.mp hmap), evexP1_evexOf (not_not.mp hpp), evexP2_evexOf, not_not.mp hop]

/-- A plain EVEX row is encodable, with the length bits and the `b` bit it was filed under (R73, R85; log 12). -/
theorem evexInstr_plain_encodes {m : Mode} {pfx : List Prefix} (hpfx : prefixesFit m pfx = true) {rm : EvexRm}
    (hrm : rm.fits (addrSizeOf m pfx) = true) (e : Evex) (ll : BitVec 2) (reg : BitVec 3) :
    (evexInstr.plain pfx e ll reg rm).encodable m = true ∧
    encode (evexInstr.plain pfx e ll reg rm) = pfx.map prefixByte ++ encodeEvex e ll reg rm := by
  have henc : (prefixesFit m pfx && rm.fits (addrSizeOf m pfx)) = true := by rw [hpfx, hrm]; rfl
  unfold evexInstr.plain
  split_ifs with h0 h1
  · exact ⟨henc, by rw [h0]; rfl⟩
  · exact ⟨henc, by rw [h1]; rfl⟩
  · refine ⟨henc, ?_⟩
    have hll : (if decide (ll = 0b11) = true then 0b11 else 0b10) = ll := by
      clear henc
      revert ll; decide
    rw [encode, encodeBody, hll]
    rfl

/-- Whatever row an EVEX encoding is filed under, the row writes the same bytes back (R70, R73). -/
theorem evexInstr_encodes {m : Mode} {pfx : List Prefix} (hpfx : prefixesFit m pfx = true) {rm : Rm}
    (hrm : rm.fits (addrSizeOf m pfx) = true) (e : Evex) (ll : BitVec 2) (b : Bool) (reg : BitVec 3) :
    (evexInstr pfx e ll b reg rm).encodable m = true ∧
    encode (evexInstr pfx e ll b reg rm) =
      pfx.map prefixByte ++ 0x62 :: evexP0 e :: evexP1 e :: evexP2 e ll b :: 0x5A :: encodeRm reg rm := by
  cases rm with
  | reg n =>
    cases b with
    | true =>
      refine ⟨hpfx, ?_⟩
      rw [evexInstr, encode, encodeBody, roundingBits_roundingOfBits]
      rfl
    | false => exact evexInstr_plain_encodes hpfx (rm := .reg n) rfl e ll reg
  | mem a =>
    cases b with
    | true => exact evexInstr_plain_encodes hpfx (rm := .bcst a) hrm e ll reg
    | false => exact evexInstr_plain_encodes hpfx (rm := .mem a) hrm e ll reg

/-- The escape byte after the prefixes chooses the family (R61, R83). -/
theorem decode_eq_instr {m : Mode} {bytes : List Byte} {i : Instr} (h : decode m bytes = .instr i) :
    ∃ pfx bs, prefixesFit m pfx = true ∧
      ((bytes = pfx.map prefixByte ++ 0x0F :: bs ∧ decodeSse m pfx bs = .instr i) ∨
      (bytes = pfx.map prefixByte ++ 0xC5 :: bs ∧ decodeVexC5 m pfx bs = .instr i) ∨
      (bytes = pfx.map prefixByte ++ 0xC4 :: bs ∧ decodeVexC4 m pfx bs = .instr i) ∨
      (bytes = pfx.map prefixByte ++ 0x62 :: bs ∧ decodeEvex m pfx bs = .instr i)) := by
  obtain ⟨hbytes, hfit⟩ := takePrefixes_spec m bytes
  unfold decode at h
  generalize (takePrefixes m bytes).1 = pfx at hbytes hfit h
  split at h
  · cases h
  · next v bs hrest =>
    rw [hrest] at hbytes
    refine ⟨pfx, bs, hfit, ?_⟩
    split_ifs at h with hsse hC5 hC4 h62
    · exact .inl ⟨by rw [← hbytes, hsse], h⟩
    · exact .inr (.inl ⟨by rw [← hbytes, hC5], h⟩)
    · exact .inr (.inr (.inl ⟨by rw [← hbytes, hC4], h⟩))
    · exact .inr (.inr (.inr ⟨by rw [← hbytes, h62], h⟩))

/-! ### Decoding and encoding are inverse (R83, R87, R88) -/

/-- The converse of `decode_encode_append`: bytes that decode to an instruction are its encoding and what
follows it, whichever family read them. -/
theorem encode_of_decode {m : Mode} {bytes : List Byte} {i : Instr} (h : decode m bytes = .instr i) :
    i.encodable m = true ∧ encode i <+: bytes := by
  obtain ⟨pfx, bs, hpfx, ⟨rfl, hd⟩ | ⟨rfl, hd⟩ | ⟨rfl, hd⟩ | ⟨rfl, hd⟩⟩ := decode_eq_instr h
  · obtain ⟨reg, rm, rest, rfl, rfl, h66, hF3, hF2, hrm⟩ := decodeSse_eq_instr hd
    refine ⟨?_, rest, List.append_assoc ..⟩
    simp [Instr.encodable, hpfx, h66, hF3, hF2, hrm]
  · obtain ⟨v, l, reg, rm, rest, rfl, rfl, hv, hrm⟩ := decodeVexC5_eq_instr hd
    cases l <;> exact ⟨by simp [Instr.encodable, hpfx, hv, hrm], rest, List.append_assoc ..⟩
  · obtain ⟨v, l, reg, rm, rest, rfl, rfl, hv, hrm⟩ := decodeVexC4_eq_instr hd
    cases l <;> exact ⟨by simp [Instr.encodable, hpfx, hv, hrm], rest, List.append_assoc ..⟩
  · obtain ⟨e, ll, b, reg, rm, rest, rfl, rfl, hrm⟩ := decodeEvex_eq_instr hd
    obtain ⟨henc, hbytes⟩ := evexInstr_encodes hpfx hrm e ll b reg
    exact ⟨henc, rest, by rw [hbytes]; exact List.append_assoc ..⟩

/-- Settles O1: the round trip of every form. -/
theorem decodeOfEncode : Obligations.DecodeOfEncode := by
  unfold Obligations.DecodeOfEncode
  intro m i rest henc
  exact decode_encode_append henc rest

/-- Settles O2: the encoding's bytes are as many as the instruction's length. -/
theorem encodeOfDecode : Obligations.EncodeOfDecode := by
  unfold Obligations.EncodeOfDecode
  intro m bytes i h
  obtain ⟨henc, hbegins⟩ := encode_of_decode h
  rw [← encode_length]
  exact ⟨henc, List.prefix_iff_eq_take.mp hbegins, hbegins.length_le⟩

/-- Reading a byte string by writing the instruction. -/
theorem decode_of_encode_eq {m : Mode} {i : Instr} {bytes : List Byte} (henc : i.encodable m = true)
    (h : encode i = bytes) : decode m bytes = .instr i := by
  rw [← h, ← List.append_nil (encode i)]
  exact decode_encode_append henc []

/-- Settles O3: each instruction is encodable and writes its byte string. -/
theorem knownEncodingsDecode : Obligations.KnownEncodingsDecode := by
  unfold Obligations.KnownEncodingsDecode
  refine ⟨?_, ?_, ?_, ?_, ?_, ?_, ?_, ?_, ?_, ?_, ?_, ?_⟩ <;> exact decode_of_encode_eq rfl rfl

/-! ### The neighbours of opcode 5A, and a step at one (R84; log 24) -/

/-- `0F 5A` is this instruction only under 66, with neither F2 nor F3. -/
theorem decodeSse_neighbour (m : Mode) {pfx : List Prefix}
    (h : Prefix.opSize ∉ pfx ∨ Prefix.rep ∈ pfx ∨ Prefix.repne ∈ pfx) (rest : List Byte) :
    ∃ why, decodeSse m pfx (0x5A :: rest) = .notThis why := by
  by_cases hrep : Prefix.rep ∈ pfx
  · exact ⟨.cvtss2sd, by simp [decodeSse, hrep]⟩
  by_cases hrepne : Prefix.repne ∈ pfx
  · exact ⟨.cvtsd2ss, by simp [decodeSse, hrep, hrepne]⟩
  have h66 : Prefix.opSize ∉ pfx := h.resolve_right (not_or.mpr ⟨hrep, hrepne⟩)
  exact ⟨.cvtps2pd, by simp [decodeSse, hrep, hrepne, h66]⟩

/-- Another `pp` is no reading under any escape, even where an earlier field already refuses the bytes. -/
theorem decodeVexC5_otherPp (m : Mode) (pfx : List Prefix) {v1 : Byte} (hpp : v1.extractLsb' 0 2 ≠ 0b01)
    (rest : List Byte) : ∃ why, decodeVexC5 m pfx (v1 :: rest) = .notThis why := by
  cases hesc : vexEscapeOk m v1 with
  | false => exact ⟨.lesLds, if_pos (by simp [hesc])⟩
  | true => exact ⟨.otherPp, (if_neg (by simp [hesc])).trans (if_pos hpp)⟩

theorem decodeVexC4_otherPp (m : Mode) (pfx : List Prefix) (v1 : Byte) {v2 : Byte}
    (hpp : v2.extractLsb' 0 2 ≠ 0b01) (rest : List Byte) :
    ∃ why, decodeVexC4 m pfx (v1 :: v2 :: rest) = .notThis why := by
  cases hesc : vexEscapeOk m v1 with
  | false => exact ⟨.lesLds, if_pos (by simp [hesc])⟩
  | true =>
    by_cases hmap : v1.extractLsb' 0 5 = 0b00001
    · exact ⟨.otherPp, (if_neg (by simp [hesc])).trans ((if_neg (not_not_intro hmap)).trans (if_pos hpp))⟩
    · exact ⟨.otherMap, (if_neg (by simp [hesc])).trans (if_pos hmap)⟩

theorem decodeEvex_otherPp (m : Mode) (pfx : List Prefix) (p0 : Byte) {p1 : Byte}
    (hpp : p1.extractLsb' 0 2 ≠ 0b01) (rest : List Byte) :
    ∃ why, decodeEvex m pfx (p0 :: p1 :: rest) = .notThis why := by
  by_cases hmap : p0.extractLsb' 0 2 = 0b01
  · exact ⟨.otherPp, (if_neg (not_not_intro hmap)).trans (if_pos hpp)⟩
  · exact ⟨.otherMap, if_pos hmap⟩

/-- Where no instruction is decoded, the fetch checks its first byte only. -/
theorem State.fetchFault_of_notThis {s : State} {why : Reject} (hd : decode s.mode s.fetchBytes = .notThis why)
    (hf : s.fetchable 1) : s.fetchFault = none := by
  unfold State.fetchFault State.decodeAtRip
  rw [hd]
  simp only [(s.nonCanonicalFetch_eq_false_iff 1).mpr hf, Bool.false_eq_true, if_false]

/-- With nothing pending and a first byte that can be fetched, a step refuses what the decoder rejects. -/
theorem step_of_notThis {s : State} {why : Reject} (hr : s.raised = none) (hf : s.fetchable 1)
    (hd : decode s.mode s.fetchBytes = .notThis why) : step s = .refused (.notThisInstruction why) := by
  have hfault : s.fetchFault = none := State.fetchFault_of_notThis hd hf
  have hdec : s.decodeAtRip = .notThis why := hd
  unfold step
  rw [hr]
  simp only [hfault, hdec]

/-- Settles O4: after the escape byte each family rejects its neighbours. -/
theorem neighboursRefused : Obligations.NeighboursRefused := by
  unfold Obligations.NeighboursRefused
  refine ⟨fun m pfx rest hpfx => ⟨fun h => ?_, fun v1 hpp => ?_, fun v1 v2 hpp => ?_, fun p0 p1 p2 hpp => ?_⟩,
    fun s why hr hf hd => step_of_notThis hr hf hd⟩
  · rw [decode_escape_sse hpfx]
    exact decodeSse_neighbour m h rest
  · rw [decode_escape_vexC5 hpfx]
    exact decodeVexC5_otherPp m pfx hpp _
  · rw [decode_escape_vexC4 hpfx]
    exact decodeVexC4_otherPp m pfx v1 hpp _
  · rw [decode_escape_evex hpfx]
    exact decodeEvex_otherPp m pfx p0 hpp _

/-! ### Length (R88) -/

/-- Length comes first in the order of R205. -/
theorem exec_of_too_long {i : Instr} (h : 15 < i.length) (s : State) : exec i s = .next (s.raise .gp) :=
  (exec_eq_execute i s).trans (if_pos h)

/-- Bytes that run out raise what a fetch that faults raises (log 13, log 19). -/
theorem step_of_truncated {s : State} (hr : s.raised = none) (hd : decode s.mode s.fetchBytes = .truncated) :
    step s = .next (s.raise .gp) := by
  rcases s.fetchFault_cases with hf | hf
  · have hdec : s.decodeAtRip = .truncated := hd
    unfold step
    rw [hr]
    simp only [hf, hdec]
  · exact step_of_fetchFault hr hf

/-- Settles O8: the length check of `exec`, and the step at bytes that run out. -/
theorem tooLongRaisesGp : Obligations.TooLongRaisesGp := by
  unfold Obligations.TooLongRaisesGp
  exact ⟨fun s i h => exec_of_too_long h s, fun s hr hd => step_of_truncated hr hd⟩

/-! ### The two VEX spellings (R69, R86) -/

/-- Only a RIP-relative address counts the instruction's length (R80). -/
theorem State.effectiveAddr_length_irrel (s : State) (sz : AddrSize) (ext : Ext) (n len len' : Nat) {a : Addr}
    (ha : ∀ d, a ≠ .dispOnly d) : s.effectiveAddr sz ext n len a = s.effectiveAddr sz ext n len' a := by
  cases a with
  | dispOnly d => exact absurd rfl (ha d)
  | _ => rfl

/-- The source of a VEX form does not depend on the spelling. -/
theorem State.vexSource_escape_irrel (s : State) (pfx : List Prefix) (ext : Ext) (vl : VecLen) (k k' : Nat) {rm : Rm}
    (hrm : ∀ d, rm ≠ .mem (.dispOnly d)) : s.vexSource pfx ext vl k rm = s.vexSource pfx ext vl k' rm := by
  cases rm with
  | reg n => rfl
  | mem a =>
    have ha : ∀ d, a ≠ .dispOnly d := fun d hd => hrm d (congrArg Rm.mem hd)
    simp only [State.vexSource, State.linear,
      s.effectiveAddr_length_irrel _ ext 1 (instrLength pfx k (addrLength a)) (instrLength pfx k' (addrLength a)) ha]

/-- SIB and displacement have at most five bytes (R88). -/
theorem rmLength_le (rm : Rm) : rmLength rm ≤ 5 := by
  have hd (d : Disp) : dispLength d ≤ 4 := by cases d <;> simp [dispLength]
  have hd16 (d : Disp16) : disp16Length d ≤ 2 := by cases d <;> simp [disp16Length]
  cases rm with
  | reg n => exact Nat.zero_le 5
  | mem a =>
    cases a with
    | base rm d => exact (hd d).trans (by decide)
    | dispOnly d => exact Nat.le_succ 4
    | sib sc i b d => exact Nat.add_le_add_left (hd d) 1
    | sibNoBase sc i d => exact Nat.le_refl 5
    | base16 rm d => exact (hd16 d).trans (by decide)
    | dispOnly16 d => exact Nat.le_add_right 2 3

/-- Truncating the pc on the way does not show. -/
theorem truncMode_truncMode_add (m : Mode) (a b : Word64) :
    truncMode m (truncMode m a + b) = truncMode m (a + b) := by
  by_cases hm : m = .long64
  · subst hm; rfl
  · apply BitVec.eq_of_toNat_eq
    simp only [truncMode_toNat hm, BitVec.toNat_add]
    omega

theorem State.nextRip_succ (s : State) (len : Nat) :
    s.nextRip (len + 1) = truncMode s.mode (s.nextRip len + 1) := by
  rw [State.nextRip, State.nextRip, truncMode_truncMode_add, BitVec.ofNat_add, BitVec.add_assoc]
  rfl

/-- The next state of an encoding that is one byte longer: after a completion the pc stands one byte further,
and an exception's state is the same, since its pc still addresses the instruction (R22, R209). -/
def State.oneByteLonger (m : Mode) (t : State) : State :=
  if t.raised = none then { t with rip := truncMode m (t.rip + 1) } else t

theorem State.oneByteLonger_raise (m : Mode) (s : State) (e : Exn) : (s.raise e).oneByteLonger m = s.raise e :=
  if_neg (Option.some_ne_none _)

theorem State.oneByteLonger_trapSimd (m : Mode) (s : State) (must may : BitVec 6) :
    (s.trapSimd must may).oneByteLonger m = s.trapSimd must may :=
  State.oneByteLonger_raise m _ _

theorem State.oneByteLonger_complete {s : State} (hr : s.raised = none) (len : Nat) (dst : BitVec 5)
    (flags : BitVec 6) (v : Zmm) :
    (s.complete len dst flags v).oneByteLonger s.mode = s.complete (len + 1) dst flags v := by
  have hrip : truncMode s.mode ((s.complete len dst flags v).rip + 1) = s.nextRip (len + 1) :=
    (s.nextRip_succ len).symm
  rw [State.oneByteLonger, if_pos (show (s.complete len dst flags v).raised = none from hr), hrip]
  rfl

theorem State.convertAndWrite_succ {s : State} (hr : s.raised = none) (len : Nat) (er : Option Rounding)
    (dst : BitVec 5) (write : BitVec 512 → List (Option Single) → BitVec 512) (lanes : List (Option Word64)) :
    s.convertAndWrite (len + 1) er dst write lanes =
      (s.convertAndWrite len er dst write lanes).oneByteLonger s.mode := by
  unfold State.convertAndWrite
  split
  · exact (State.oneByteLonger_trapSimd _ _ _ _).symm
  · exact (State.oneByteLonger_complete hr _ _ _ _).symm

/-- An encoding that is one byte longer, and still fits in 15, executes the same. -/
theorem State.execute_succ {s t : State} (hr : s.raised = none) {len : Nat} (hlen : len + 1 ≤ 15) {ud : Bool}
    {src : Access (List (Option Word64))} {er : Option Rounding} {dst : BitVec 5}
    {write : BitVec 512 → List (Option Single) → BitVec 512} (h : s.execute len ud src er dst write = .next t) :
    s.execute (len + 1) ud src er dst write = .next (t.oneByteLonger s.mode) := by
  rcases s.execute_cases len ud src er dst write with
    ⟨hl, _⟩ | ⟨_, hu, hx⟩ | ⟨_, hu, hts, hx⟩ | ⟨_, hu, hts, ⟨e, hs, hx⟩ | ⟨why, _, hx⟩ | ⟨lanes, hs, hx⟩⟩
  · omega
  all_goals rw [hx] at h; cases h
  · rw [State.oneByteLonger_raise]
    exact (if_neg (by omega)).trans (if_pos hu)
  · rw [State.oneByteLonger_raise]
    exact (if_neg (by omega)).trans ((if_neg (by simp [hu])).trans (if_pos hts))
  · rw [s.execute_ready hlen hu hts, hs, State.oneByteLonger_raise]
  · rw [s.execute_ready hlen hu hts, hs, ← State.convertAndWrite_succ hr]

/-- A VEX form with four bytes before ModRM instead of three (R65, R69, R88). -/
theorem State.executeVex_three_four {s t : State} {pfx : List Prefix} {ext : Ext} {vvvv : BitVec 4} {vl : VecLen}
    {reg : BitVec 3} {rm : Rm} (hr : s.raised = none) (hpfx : pfx.length ≤ 5) (hrm : ∀ d, rm ≠ .mem (.dispOnly d))
    (h : s.executeVex pfx ext vvvv vl 3 reg rm = .next t) :
    s.executeVex pfx ext vvvv vl 4 reg rm = .next (t.oneByteLonger s.mode) := by
  have hle := rmLength_le rm
  have hlen : instrLength pfx 4 (rmLength rm) = instrLength pfx 3 (rmLength rm) + 1 := by
    unfold instrLength; omega
  have h15 : instrLength pfx 3 (rmLength rm) + 1 ≤ 15 := by
    unfold instrLength; omega
  rw [State.executeVex, hlen, s.vexSource_escape_irrel pfx ext vl 4 3 hrm]
  exact State.execute_succ hr h15 h

/-- Settles O39: both spellings have the same extension bits, and neither reads `W`. -/
theorem vexSpellingsAgree : Obligations.VexSpellingsAgree := by
  unfold Obligations.VexSpellingsAgree
  intro s t pfx r w vvvv reg rm hr hpfx hrm
  exact ⟨State.executeVex_three_four (ext := vex2Ext ⟨r, vvvv⟩) hr hpfx hrm,
    State.executeVex_three_four (ext := vex2Ext ⟨r, vvvv⟩) hr hpfx hrm⟩

end Sys2Proof.Machine
end

section
/-! SUPPORT. 40_conversion_numerics.md R120 to R123: from the lanes' conditions to a SIMD trap, or under
embedded rounding to a completion. -/

namespace Sys2Proof.Machine

/-! ### The traps (R120, R123) -/

/-- Past R205 a ready form with a readable operand converts its lanes and traps or completes. -/
theorem exec_readable {s : State} {i : Instr} (hready : s.ready i) (hsrc : s.sourceReadable i) :
    exec i s =
      .next (s.convertAndWrite i.length (erOf i) (dstOf s.mode i) (writeOf i) (s.lanesOf i)) := by
  rw [exec_ready hready, s.sourceOf_readable i hsrc]

/-- Settles O24: the first stage of R120 decides. -/
theorem preComputationTraps : Obligations.PreComputationTraps := by
  unfold Obligations.PreComputationTraps
  intro s i hready hsrc her hpolicy hpre
  rw [exec_readable hready hsrc, her, s.convertAndWrite_plain, if_pos hpre, hpolicy, ← s.trapSimd_eq_trapped]

/-- Settles O25: the first stage of R120 is quiet and the second decides. -/
theorem postComputationTraps : Obligations.PostComputationTraps := by
  unfold Obligations.PostComputationTraps
  intro s i hready hsrc her hpolicy hpre hpost
  rw [exec_readable hready hsrc, her, s.convertAndWrite_plain, if_neg (not_not_intro hpre), if_pos hpost,
    hpolicy, ← s.trapSimd_eq_trapped]

/-- A SIMD trap records some flags, moves the counter of the free values, and leaves the rest (R209; log 9). -/
theorem State.trapSimd_eq_trapped_trapFlags (s : State) (must may : BitVec 6) :
    s.trapSimd must may =
      { s.trapped (if s.cr4[10] then .xm else .ud) (trapFlags (Config.freeFlags s.freeCount) must may) with
        freeCount := if must = may then s.freeCount else s.freeCount + 1 } := by
  have hcr : s.simdFp.cr2 s.cr2 = s.cr2 := s.simdFp_cr2 s.cr2
  unfold State.trapSimd State.trapped State.raise
  simp only [mxOr]
  rw [hcr]
  rfl

theorem trapFlags_ge (free must may : BitVec 6) : must &&& ~~~(trapFlags free must may) = 0 := by
  unfold trapFlags
  split <;> ext k hk <;> simp +contextual

theorem trapFlags_le {free must may : BitVec 6} (h : must &&& ~~~may = 0) :
    trapFlags free must may &&& ~~~may = 0 := by
  unfold trapFlags
  split
  · exact h
  · rw [BitVec.and_comm] at h ⊢
    rw [BitVec.and_or_distrib_left, h]
    ext k hk
    cases hm : may[k] <;> simp [hm]

/-- The unmasked conditions of a set are among its conditions. -/
theorem State.unmasked_le (s : State) {c may : BitVec 6} (h : c &&& ~~~may = 0) : s.unmasked c &&& ~~~may = 0 := by
  unfold State.unmasked
  rw [BitVec.and_assoc, BitVec.and_comm (~~~_), ← BitVec.and_assoc, h]
  exact BitVec.zero_and

theorem and_not_or_left (a b : BitVec 6) : a &&& ~~~(a ||| b) = 0 := by
  ext k hk
  cases ha : a[k] <;> simp [ha]

/-- Settles O26: in either stage the conditions that must be recorded are among those that may be. -/
theorem trapFlagsBetween : Obligations.TrapFlagsBetween := by
  unfold Obligations.TrapFlagsBetween
  intro s i hready hsrc her hpolicy hany
  rw [exec_readable hready hsrc, her, s.convertAndWrite_plain, hpolicy]
  by_cases hpre : s.unmasked (s.preSet i) ≠ 0
  · rw [if_pos hpre, if_pos hpre]
    exact ⟨_, _, congrArg _ (s.trapSimd_eq_trapped_trapFlags _ _), trapFlags_ge _ _ _,
      trapFlags_le (s.unmasked_le (and_not_or_left _ _))⟩
  · have hpost : s.unmasked (s.postSet i) ≠ 0 := by
      intro h0
      rw [s.unmasked_or, not_not.mp hpre, h0] at hany
      exact hany BitVec.zero_or
    rw [if_neg hpre, if_neg hpre, if_pos hpost]
    refine ⟨_, _, congrArg _ (s.trapSimd_eq_trapped_trapFlags _ _), trapFlags_ge _ _ _,
      trapFlags_le (s.unmasked_le ?_)⟩
    rw [BitVec.or_comm]
    exact and_not_or_left _ _

/-! ### Embedded rounding (R121) -/

/-- Settles O17: the register source is always readable, and R121 leaves only delivery. -/
theorem evexEmbeddedRoundingCompletes : Obligations.EvexEmbeddedRoundingCompletes := by
  unfold Obligations.EvexEmbeddedRoundingCompletes
  intro pfx e rc reg n s hready
  have hsrc : s.sourceReadable (.vcvtpd2psEvex512Er pfx e rc reg n) := fun _ hp => nomatch hp
  have hrun : exec (.vcvtpd2psEvex512Er pfx e rc reg n) s = _ :=
    (exec_readable hready hsrc).trans (congrArg Host.Outcome.next (s.convertAndWrite_er _ rc _ _))
  exact ⟨_, hrun, s.evexWrite_spec (.vcvtpd2psEvex512Er pfx e rc reg n) e.z _ (s.erEnv rc)⟩

end Sys2Proof.Machine
end

section
/-! SUPPORT. 40_conversion_numerics.md R103: `RoundInt` as rounding of a natural number's quotient by a power
of two, and how that rounding orders, scales and splits. -/

namespace Sys2Proof.Machine

/-! ### The rounding decision (R102, R103) -/

/-- What rounding adds to the kept part `hi` for a discarded part `lo` of two times `half`. -/
def increment (rc : Rounding) (s : Bool) (hi lo half : Nat) : Nat :=
  if lo ≠ 0 ∧ roundsUp rc s hi lo half = true then 1 else 0

theorem increment_zero (rc : Rounding) (s : Bool) (hi half : Nat) : increment rc s hi 0 half = 0 := by
  simp [increment]

theorem increment_le_one (rc : Rounding) (s : Bool) (hi lo half : Nat) : increment rc s hi lo half ≤ 1 := by
  unfold increment
  split <;> omega

theorem roundsUp_nearest (s : Bool) (hi lo half : Nat) :
    roundsUp .nearest s hi lo half = true ↔ half < lo ∨ (lo = half ∧ hi % 2 = 1) := by
  simp [roundsUp]

/-- A directed mode looks at the sign alone. -/
theorem roundsUp_directed {rc : Rounding} (h : rc ≠ .nearest) (s : Bool) (hi lo half : Nat) :
    roundsUp rc s hi lo half = roundsAway rc s := by
  cases rc with
  | nearest => exact absurd rfl h
  | down => rfl
  | up => rfl
  | zero => rfl

/-- Round to nearest keeps at most half a unit, discards at least half, and at exactly half gives an even
number. -/
theorem increment_nearest (s : Bool) (hi lo half : Nat) :
    (increment .nearest s hi lo half = 0 ∧ lo ≤ half ∧ (lo = half → lo ≠ 0 → hi % 2 = 0)) ∨
    (increment .nearest s hi lo half = 1 ∧ half ≤ lo ∧ (lo = half → (hi + 1) % 2 = 0)) := by
  unfold increment
  split
  · next h =>
    rw [roundsUp_nearest] at h
    omega
  · next h =>
    rw [roundsUp_nearest] at h
    omega

theorem increment_directed {rc : Rounding} (h : rc ≠ .nearest) (s : Bool) (hi : Nat) {lo : Nat} (hlo : lo ≠ 0)
    (half : Nat) : increment rc s hi lo half = if roundsAway rc s = true then 1 else 0 := by
  simp [increment, hlo, roundsUp_directed h]

/-- Scaling the discarded part and its half alike changes nothing. -/
theorem increment_mul (rc : Rounding) (s : Bool) (hi lo half : Nat) {c : Nat} (hc : 0 < c) :
    increment rc s hi (lo * c) (half * c) = increment rc s hi lo half := by
  have hup : roundsUp rc s hi (lo * c) (half * c) = roundsUp rc s hi lo half := by
    by_cases hrc : rc = .nearest
    · subst hrc
      rw [Bool.eq_iff_iff, roundsUp_nearest, roundsUp_nearest, Nat.mul_lt_mul_right hc, Nat.mul_left_inj hc.ne']
    · rw [roundsUp_directed hrc, roundsUp_directed hrc]
  simp only [increment, hup, ne_eq, Nat.mul_eq_zero, hc.ne', or_false]

/-- Of the kept part only the parity counts. -/
theorem increment_parity (rc : Rounding) (s : Bool) {hi hi' : Nat} (lo half : Nat) (h : hi % 2 = hi' % 2) :
    increment rc s hi lo half = increment rc s hi' lo half := by
  unfold increment roundsUp
  rw [h]

theorem increment_mono (rc : Rounding) (s : Bool) (hi half : Nat) {lo lo' : Nat} (hle : lo ≤ lo') :
    increment rc s hi lo half ≤ increment rc s hi lo' half := by
  by_cases hrc : rc = .nearest
  · subst hrc
    simp only [increment, roundsUp_nearest]
    split <;> split <;> omega
  · simp only [increment, roundsUp_directed hrc]
    cases roundsAway rc s with
    | false => simp
    | true =>
      simp only [and_true]
      split <;> split <;> omega

/-! ### The rounded quotient -/

/-- `n / 2^d` rounded to an integer (R103). -/
def roundedQuot (rc : Rounding) (s : Bool) (n d : Nat) : Nat :=
  n / 2 ^ d + increment rc s (n / 2 ^ d) (n % 2 ^ d) (2 ^ (d - 1))

/-- `RoundInt` at a power that is not positive. -/
theorem roundInt_neg (n d : Nat) (rc : Rounding) (s : Bool) :
    roundInt n (-(d : Int)) rc s = (roundedQuot rc s n d, decide (¬ 2 ^ d ∣ n)) := by
  cases d with
  | zero => simp [roundInt, roundedQuot, increment, Nat.mod_one]
  | succ k =>
    show roundInt n (.negSucc k) rc s = _
    simp only [roundInt, roundedQuot, increment, Nat.dvd_iff_mod_eq_zero, Nat.add_sub_cancel]
    by_cases h : n % 2 ^ (k + 1) = 0 <;> simp [h]

variable {rc : Rounding} {s : Bool} {n d : Nat}

theorem roundedQuot_of_dvd (h : 2 ^ d ∣ n) : roundedQuot rc s n d = n / 2 ^ d := by
  rw [roundedQuot, Nat.mod_eq_zero_of_dvd h, increment_zero, Nat.add_zero]

theorem roundedQuot_directed (hrc : rc ≠ .nearest) (h : ¬ 2 ^ d ∣ n) :
    roundedQuot rc s n d = n / 2 ^ d + if roundsAway rc s = true then 1 else 0 := by
  rw [Nat.dvd_iff_mod_eq_zero] at h
  rw [roundedQuot, increment_directed hrc s _ h]

/-- Rounding the quotient of a multiple of `2^k` by `2^(d+k)`: the common factor cancels. -/
theorem roundedQuot_mul_pow (rc : Rounding) (s : Bool) (n d k : Nat) :
    roundedQuot rc s (n * 2 ^ k) (d + k) = roundedQuot rc s n d := by
  have hk : 0 < 2 ^ k := Nat.two_pow_pos k
  have hdiv : n * 2 ^ k / 2 ^ (d + k) = n / 2 ^ d := by rw [Nat.pow_add, Nat.mul_div_mul_right _ _ hk]
  have hmod : n * 2 ^ k % 2 ^ (d + k) = n % 2 ^ d * 2 ^ k := by rw [Nat.pow_add, Nat.mul_mod_mul_right]
  unfold roundedQuot
  rw [hdiv, hmod]
  cases d with
  | zero => rw [Nat.pow_zero, Nat.mod_one, Nat.zero_mul, increment_zero, increment_zero]
  | succ d =>
    have hhalf : 2 ^ (d + 1 + k - 1) = 2 ^ (d + 1 - 1) * 2 ^ k := by rw [← Nat.pow_add]; congr 1; omega
    rw [hhalf, increment_mul _ _ _ _ _ hk]

/-- An even number of whole units passes through the rounding. -/
theorem roundedQuot_add_mul (rc : Rounding) (s : Bool) (n d : Nat) {a : Nat} (ha : a % 2 = 0) :
    roundedQuot rc s (a * 2 ^ d + n) d = a + roundedQuot rc s n d := by
  have hdiv : (a * 2 ^ d + n) / 2 ^ d = a + n / 2 ^ d := by
    rw [Nat.add_comm, Nat.add_mul_div_right _ _ (Nat.two_pow_pos d), Nat.add_comm]
  have hmod : (a * 2 ^ d + n) % 2 ^ d = n % 2 ^ d := by
    rw [Nat.add_comm, Nat.add_mul_mod_self_right]
  have hpar : (a + n / 2 ^ d) % 2 = n / 2 ^ d % 2 := by omega
  rw [roundedQuot, hdiv, hmod, increment_parity rc s _ _ hpar, Nat.add_assoc]
  rfl

theorem roundedQuot_mono (rc : Rounding) (s : Bool) (d : Nat) {n n' : Nat} (h : n ≤ n') :
    roundedQuot rc s n d ≤ roundedQuot rc s n' d := by
  unfold roundedQuot
  rcases (Nat.div_le_div_right (c := 2 ^ d) h).lt_or_eq with hlt | heq
  · have := increment_le_one rc s (n / 2 ^ d) (n % 2 ^ d) (2 ^ (d - 1))
    omega
  · have hmod : n % 2 ^ d ≤ n' % 2 ^ d := by
      have h1 := Nat.div_add_mod n (2 ^ d)
      have h2 := Nat.div_add_mod n' (2 ^ d)
      rw [heq] at h1
      omega
    rw [heq]
    exact Nat.add_le_add_left (increment_mono rc s _ _ hmod) _

theorem roundedQuot_mul (rc : Rounding) (s : Bool) (c d : Nat) : roundedQuot rc s (c * 2 ^ d) d = c := by
  rw [roundedQuot_of_dvd (Nat.dvd_mul_left _ _), Nat.mul_div_cancel _ (Nat.two_pow_pos d)]

theorem roundedQuot_le {c : Nat} (h : n ≤ c * 2 ^ d) : roundedQuot rc s n d ≤ c :=
  (roundedQuot_mono rc s d h).trans_eq (roundedQuot_mul rc s c d)

/-- Less than half a unit: only a mode that rounds away from zero gives one. -/
theorem roundedQuot_of_small {c : Nat} (hn : n < 2 ^ c) (hnz : n ≠ 0) (hcd : c < d) :
    roundedQuot rc s n d = (if roundsAway rc s = true then 1 else 0) ∧ ¬ 2 ^ d ∣ n := by
  have hhalf : n < 2 ^ (d - 1) := hn.trans_le (Nat.pow_le_pow_right (by decide) (by omega))
  have hunit : n < 2 ^ d := hhalf.trans_le (Nat.pow_le_pow_right (by decide) (by omega))
  refine ⟨?_, Nat.not_dvd_of_pos_of_lt (Nat.pos_of_ne_zero hnz) hunit⟩
  rw [roundedQuot, Nat.div_eq_of_lt hunit, Nat.mod_eq_of_lt hunit, Nat.zero_add]
  by_cases hrc : rc = .nearest
  · rw [hrc]
    rcases increment_nearest s 0 n (2 ^ (d - 1)) with ⟨hdown, _⟩ | ⟨_, hge, _⟩
    · exact hdown
    · exact absurd hge (Nat.not_le_of_lt hhalf)
  · exact increment_directed hrc s 0 hnz _

/-! ### `RoundInt` itself -/

/-- Round to nearest: at most half a unit off, and at exactly half the result is even. -/
theorem roundedQuot_nearest (s : Bool) (n : Nat) (hd : 0 < d) :
    |2 * ((roundedQuot .nearest s n d : Int) * 2 ^ d) - 2 * n| ≤ 2 ^ d ∧
    (|2 * ((roundedQuot .nearest s n d : Int) * 2 ^ d) - 2 * n| = 2 ^ d → roundedQuot .nearest s n d % 2 = 0) := by
  have hhalf : 2 ^ d = 2 * 2 ^ (d - 1) := by rw [← Nat.pow_succ']; congr 1; omega
  have hsplit := Nat.div_add_mod n (2 ^ d)
  have hlt := Nat.mod_lt n (Nat.two_pow_pos d)
  have hcast : (2 : Int) ^ d = ((2 ^ d : Nat) : Int) := by push_cast; rfl
  have hchoice := increment_nearest s (n / 2 ^ d) (n % 2 ^ d) (2 ^ (d - 1))
  rw [hcast, roundedQuot]
  generalize increment .nearest s (n / 2 ^ d) (n % 2 ^ d) (2 ^ (d - 1)) = up at *
  generalize n / 2 ^ d = q at *
  generalize n % 2 ^ d = r at *
  generalize 2 ^ d = unit at *
  have hdist : 2 * (((q + up : Nat) : Int) * unit) - 2 * n = 2 * up * unit - 2 * r := by
    rw [← hsplit]
    push_cast
    ring
  rw [hdist]
  rcases hchoice with ⟨rfl, hle, heven⟩ | ⟨rfl, hle, heven⟩
  · rw [abs_of_nonpos (by omega)]
    omega
  · rw [abs_of_nonneg (by omega)]
    omega

/-- Settles O51: at a negative power `RoundInt` is the rounded quotient. -/
theorem roundIntRounds : Obligations.RoundIntRounds := by
  unfold Obligations.RoundIntRounds
  intro m rc s
  refine ⟨fun k => rfl, fun d hd => ?_⟩
  rw [roundInt_neg]
  refine ⟨by simp, fun h => ?_, fun h haway => ?_, fun h hrc haway => ?_, fun hrc => ?_⟩
  · exact (congrArg (· * 2 ^ d) (roundedQuot_of_dvd h)).trans (Nat.div_mul_cancel h)
  · have hrc : rc ≠ .nearest := fun hn => by rw [hn] at haway; cases haway
    exact (roundedQuot_directed hrc h).trans (by rw [if_pos haway])
  · exact (roundedQuot_directed hrc h).trans (by rw [if_neg (by simp [haway])]; rfl)
  · subst hrc
    exact roundedQuot_nearest s m hd

end Sys2Proof.Machine
end

section
/-! SUPPORT. 40_conversion_numerics.md R100, R101: a value's magnitude bits as one number, its significand and
scale, and the order of the values. -/

namespace Sys2Proof.Machine

/-! ### Magnitude bits and values -/

/-- The integer significand of magnitude bits `n` with a fraction of `p` bits. -/
def fieldSig (p n : Nat) : Nat := if n < 2 ^ p then n else 2 ^ p + n % 2 ^ p

/-- The power of two that the significand counts, in units of the smallest denormal. -/
def fieldScale (p n : Nat) : Nat := n / 2 ^ p - 1

/-- The value of magnitude bits `n`, in units of the smallest denormal. -/
def fieldValue (p n : Nat) : Nat := fieldSig p n * 2 ^ fieldScale p n

variable {p n : Nat}

theorem fieldSig_of_lt (h : n < 2 ^ p) : fieldSig p n = n := if_pos h

theorem fieldSig_of_le (h : 2 ^ p ≤ n) : fieldSig p n = 2 ^ p + n % 2 ^ p := if_neg (by omega)

theorem fieldScale_of_lt (h : n < 2 ^ p) : fieldScale p n = 0 := by rw [fieldScale, Nat.div_eq_of_lt h]

theorem fieldValue_of_lt (h : n < 2 ^ p) : fieldValue p n = n := by
  rw [fieldValue, fieldSig_of_lt h, fieldScale_of_lt h, Nat.pow_zero, Nat.mul_one]

theorem fieldSig_lt (p n : Nat) : fieldSig p n < 2 * 2 ^ p := by
  have := Nat.mod_lt n (Nat.two_pow_pos p)
  unfold fieldSig
  split <;> omega

/-- Magnitude bits are the significand above `2^p` for each step of the scale. -/
theorem scale_mul_add_sig (p n : Nat) : fieldScale p n * 2 ^ p + fieldSig p n = n := by
  by_cases h : n < 2 ^ p
  · rw [fieldSig_of_lt h, fieldScale_of_lt h, Nat.zero_mul, Nat.zero_add]
  · have hsplit := Nat.div_add_mod' n (2 ^ p)
    have hpos : 1 ≤ n / 2 ^ p := (Nat.one_le_div_iff (Nat.two_pow_pos p)).mpr (by omega)
    obtain ⟨k, hk⟩ := Nat.exists_eq_add_of_le hpos
    rw [fieldSig_of_le (by omega), fieldScale, hk, Nat.add_sub_cancel_left]
    rw [hk, Nat.add_mul] at hsplit
    omega

/-- A significand and a scale determine their magnitude bits. -/
theorem fields_of_sum {k m : Nat} (hm : 2 ^ p ≤ m) (hlt : m < 2 * 2 ^ p) :
    fieldScale p (k * 2 ^ p + m) = k ∧ fieldSig p (k * 2 ^ p + m) = m := by
  have hsum : k * 2 ^ p + m = (k + 1) * 2 ^ p + (m - 2 ^ p) := by rw [Nat.add_mul]; omega
  have hdiv : (k * 2 ^ p + m) / 2 ^ p = k + 1 := by
    rw [hsum, Nat.add_comm, Nat.add_mul_div_right _ _ (Nat.two_pow_pos p), Nat.div_eq_of_lt (by omega), Nat.zero_add]
  have hmod : (k * 2 ^ p + m) % 2 ^ p = m - 2 ^ p := by
    rw [hsum, Nat.add_comm, Nat.add_mul_mod_self_right, Nat.mod_eq_of_lt (by omega)]
  refine ⟨by rw [fieldScale, hdiv, Nat.add_sub_cancel], ?_⟩
  rw [fieldSig_of_le (by omega), hmod]
  omega

theorem fieldValue_of_sum {k m : Nat} (hm : 2 ^ p ≤ m) (hlt : m < 2 * 2 ^ p) :
    fieldValue p (k * 2 ^ p + m) = m * 2 ^ k := by
  obtain ⟨hscale, hsig⟩ := fields_of_sum (k := k) hm hlt
  rw [fieldValue, hscale, hsig]

/-- The next value is one unit of the scale away, also where the significand carries. -/
theorem fieldValue_succ (p n : Nat) : fieldValue p (n + 1) = fieldValue p n + 2 ^ fieldScale p n := by
  by_cases h : n + 1 < 2 ^ p
  · have hn : n < 2 ^ p := by omega
    rw [fieldValue_of_lt h, fieldValue_of_lt hn, fieldScale_of_lt hn, Nat.pow_zero]
  · have hn := scale_mul_add_sig p n
    have hlt := fieldSig_lt p n
    have hle : 2 ^ p ≤ fieldSig p n + 1 := by
      by_cases hn' : n < 2 ^ p
      · rw [fieldSig_of_lt hn']; omega
      · rw [fieldSig_of_le (by omega)]; omega
    rcases (show fieldSig p n + 1 < 2 * 2 ^ p ∨ fieldSig p n + 1 = 2 * 2 ^ p by omega) with hm | hm
    · have hsum : n + 1 = fieldScale p n * 2 ^ p + (fieldSig p n + 1) := by omega
      rw [hsum, fieldValue_of_sum hle hm, Nat.add_mul, Nat.one_mul]
      rfl
    · have hpos := Nat.two_pow_pos p
      have hsum : n + 1 = (fieldScale p n + 1) * 2 ^ p + 2 ^ p := by rw [Nat.add_mul]; omega
      rw [hsum, fieldValue_of_sum (le_refl _) (by omega)]
      calc 2 ^ p * 2 ^ (fieldScale p n + 1) = (2 * 2 ^ p) * 2 ^ fieldScale p n := by rw [Nat.pow_succ]; ring
        _ = (fieldSig p n + 1) * 2 ^ fieldScale p n := by rw [hm]
        _ = fieldValue p n + 2 ^ fieldScale p n := by rw [Nat.add_mul, Nat.one_mul]; rfl

theorem fieldValue_strictMono (p : Nat) : StrictMono (fieldValue p) :=
  strictMono_nat_of_lt_succ fun n => by
    rw [fieldValue_succ]
    exact Nat.lt_add_of_pos_right (Nat.two_pow_pos _)

theorem strictMono_mul_two_pow {f : Nat → Nat} (hf : StrictMono f) (k : Nat) : StrictMono fun g => f g * 2 ^ k :=
  fun _ _ h => Nat.mul_lt_mul_of_pos_right (hf h) (Nat.two_pow_pos k)

/-- A normal value in finer units. -/
theorem fieldValue_shift (h : 2 ^ p ≤ n) (k : Nat) :
    fieldValue p n * 2 ^ (k + 1) = (2 ^ p + n % 2 ^ p) * 2 ^ (n / 2 ^ p + k) := by
  have hpos : 1 ≤ n / 2 ^ p := (Nat.one_le_div_iff (Nat.two_pow_pos p)).mpr h
  have hpow : n / 2 ^ p + k = fieldScale p n + (k + 1) := by
    rw [fieldScale]
    omega
  rw [fieldValue, fieldSig_of_le h, hpow, Nat.pow_add 2 (fieldScale p n), Nat.mul_assoc]

/-! ### The fields of a double-precision value (R100) -/

theorem dblMag_lt (x : Word64) : dblMag x < 2 ^ 63 := (x.extractLsb' 0 63).isLt

theorem dblMag_eq (x : Word64) : dblMag x = x.toNat % 2 ^ 63 := by
  rw [dblMag, BitVec.extractLsb'_toNat, Nat.shiftRight_zero]

theorem toNat_dblExp (x : Word64) : (x.extractLsb' 52 11).toNat = dblMag x / 2 ^ 52 := by
  rw [dblMag_eq, BitVec.extractLsb'_toNat, Nat.shiftRight_eq_div_pow]
  omega

theorem toNat_dblFrac (x : Word64) : (x.extractLsb' 0 52).toNat = dblMag x % 2 ^ 52 := by
  rw [dblMag_eq, BitVec.extractLsb'_toNat, Nat.shiftRight_zero]
  omega

theorem dblExp_eq_zero_iff (x : Word64) : x.extractLsb' 52 11 = 0 ↔ dblMag x < 2 ^ 52 := by
  rw [← BitVec.toNat_inj, toNat_dblExp]
  show dblMag x / 2 ^ 52 = 0 ↔ _
  omega

theorem dblExp_eq_max_iff (x : Word64) : x.extractLsb' 52 11 = 2047 ↔ 2047 * 2 ^ 52 ≤ dblMag x := by
  have := dblMag_lt x
  rw [← BitVec.toNat_inj, toNat_dblExp]
  show dblMag x / 2 ^ 52 = 2047 ↔ _
  omega

theorem dblFrac_eq_zero_iff (x : Word64) : x.extractLsb' 0 52 = 0 ↔ dblMag x % 2 ^ 52 = 0 := by
  rw [← BitVec.toNat_inj, toNat_dblFrac]
  rfl

/-- The 29 bits that single precision has no place for. -/
theorem dropped_eq_zero_iff (x : Word64) : x.extractLsb' 0 29 = 0 ↔ 2 ^ 29 ∣ dblMag x := by
  rw [← BitVec.toNat_inj, dblMag_eq, BitVec.extractLsb'_toNat, Nat.shiftRight_zero]
  show x.toNat % 2 ^ 29 = 0 ↔ _
  omega

/-- The magnitude of a finite source in units of `2^-1074`. -/
def dblUnits (x : Word64) : Nat := fieldValue 52 (dblMag x)

theorem dblScaled_eq (x : Word64) : dblScaled x = (if x[63] then -1 else 1) * (dblUnits x : Int) := by
  unfold dblScaled dblUnits
  simp only [dblExp_eq_zero_iff, toNat_dblExp, toNat_dblFrac]
  by_cases h : dblMag x < 2 ^ 52
  · rw [if_pos h, fieldValue_of_lt h, Nat.mod_eq_of_lt h]
  · rw [if_neg h, fieldValue, fieldSig_of_le (by omega), fieldScale]

theorem natAbs_dblScaled (x : Word64) : (dblScaled x).natAbs = dblUnits x := by
  rw [dblScaled_eq]
  cases x[63] <;> simp

/-! ### The fields of a single-precision value (R101) -/

/-- The magnitude bits of a single-precision value. -/
def sglMag (r : Single) : Nat := (r.extractLsb' 0 31).toNat

theorem sglMag_lt (r : Single) : sglMag r < 2 ^ 31 := (r.extractLsb' 0 31).isLt

theorem sglMag_eq (r : Single) : sglMag r = r.toNat % 2 ^ 31 := by
  rw [sglMag, BitVec.extractLsb'_toNat, Nat.shiftRight_zero]

theorem signed_sign (s : Bool) (mag : BitVec 31) : (signed s mag)[31] = s := by
  show (BitVec.ofBool s ++ mag).getLsbD 31 = s
  rw [BitVec.getLsbD_append]
  simp

theorem sglMag_signed (s : Bool) (mag : BitVec 31) : sglMag (signed s mag) = mag.toNat := by
  rw [sglMag, signed, BitVec.extractLsb'_append_eq_right]

theorem toNat_sglExp (r : Single) : (r.extractLsb' 23 8).toNat = sglMag r / 2 ^ 23 := by
  rw [sglMag_eq, BitVec.extractLsb'_toNat, Nat.shiftRight_eq_div_pow]
  omega

theorem toNat_sglFrac (r : Single) : (r.extractLsb' 0 23).toNat = sglMag r % 2 ^ 23 := by
  rw [sglMag_eq, BitVec.extractLsb'_toNat, Nat.shiftRight_zero]
  omega

theorem sglExp_eq_max_iff (r : Single) : r.extractLsb' 23 8 = 255 ↔ 255 * 2 ^ 23 ≤ sglMag r := by
  have := sglMag_lt r
  rw [← BitVec.toNat_inj, toNat_sglExp]
  show sglMag r / 2 ^ 23 = 255 ↔ _
  omega

/-- The value of single-precision magnitude bits in units of `2^-1074`. -/
def sglUnits (g : Nat) : Nat := fieldValue 23 g * 2 ^ 925

theorem sglUnits_strictMono : StrictMono sglUnits := strictMono_mul_two_pow (fieldValue_strictMono 23) 925

theorem sglUnits_zero : sglUnits 0 = 0 := by
  rw [sglUnits, fieldValue_of_lt (Nat.two_pow_pos 23), Nat.zero_mul]

theorem sglScaled_eq (r : Single) : sglScaled r = (if r[31] then -1 else 1) * (sglUnits (sglMag r) : Int) := by
  have hexp : r.extractLsb' 23 8 = 0 ↔ sglMag r < 2 ^ 23 := by
    rw [← BitVec.toNat_inj, toNat_sglExp]
    show sglMag r / 2 ^ 23 = 0 ↔ _
    omega
  unfold sglScaled sglUnits
  simp only [hexp, toNat_sglExp, toNat_sglFrac]
  by_cases h : sglMag r < 2 ^ 23
  · rw [if_pos h, fieldValue_of_lt h, Nat.mod_eq_of_lt h]
  · rw [if_neg h, fieldValue_shift (Nat.le_of_not_lt h) 924]

end Sys2Proof.Machine
end

section
/-! SUPPORT. 40_conversion_numerics.md R110 to R115: the conversion of each class of source, in terms of its
magnitude bits and its value. -/

namespace Sys2Proof.Machine

/-! ### Rounding to 24 bits (R110) -/

/-- The rounding to 24 bits is exact when the significand has no bit below its upper 24. -/
theorem round24_inexact (m : Nat) (q : Int) (rc : Rounding) (s : Bool) :
    (round24 m q rc s).2 = decide (¬ 2 ^ (Nat.log2 m - 23) ∣ m) := by
  unfold round24 binade
  rcases Nat.le_total 23 (Nat.log2 m) with h | h
  · have hpow : q - (((Nat.log2 m : Int) + q) - 23) = -((Nat.log2 m - 23 : Nat) : Int) := by omega
    rw [hpow, roundInt_neg]
  · have hpow : q - (((Nat.log2 m : Int) + q) - 23) = ((23 - Nat.log2 m : Nat) : Int) := by omega
    rw [hpow, Nat.sub_eq_zero_of_le h, Nat.pow_zero]
    exact (decide_eq_false (not_not_intro (Nat.one_dvd m))).symm

variable {m k : Nat} {rc : Rounding} {s : Bool}

theorem log2_of_normal (hm : 2 ^ 52 ≤ m) (hlt : m < 2 ^ 53) : Nat.log2 m = 52 :=
  (Nat.log2_eq_iff (by omega)).mpr ⟨hm, hlt⟩

theorem binade_of_normal (hm : 2 ^ 52 ≤ m) (hlt : m < 2 ^ 53) (q : Int) : binade m q = 52 + q := by
  rw [binade, log2_of_normal hm hlt]
  rfl

/-- A normal source loses 29 bits. -/
theorem round24_of_normal (hm : 2 ^ 52 ≤ m) (hlt : m < 2 ^ 53) (q : Int) :
    round24 m q rc s = (roundedQuot rc s m 29, decide (¬ 2 ^ 29 ∣ m)) := by
  have hpow : q - (52 + q - 23) = -((29 : Nat) : Int) := by omega
  rw [round24, binade_of_normal hm hlt, hpow, roundInt_neg]

/-- Rounding the magnitude bits is rounding the significand: a carry moves the exponent by itself. -/
theorem roundedQuot_magnitude (rc : Rounding) (s : Bool) (m k : Nat) :
    roundedQuot rc s (k * 2 ^ 52 + m) 29 = k * 2 ^ 23 + roundedQuot rc s m 29 := by
  have hk : k * 2 ^ 52 = k * 2 ^ 23 * 2 ^ 29 := by omega
  rw [hk, roundedQuot_add_mul _ _ _ _ (by omega)]

theorem roundedQuot_normal_bounds (hm : 2 ^ 52 ≤ m) (hlt : m < 2 ^ 53) :
    2 ^ 23 ≤ roundedQuot rc s m 29 ∧ roundedQuot rc s m 29 ≤ 2 ^ 24 := by
  have := increment_le_one rc s (m / 2 ^ 29) (m % 2 ^ 29) (2 ^ (29 - 1))
  unfold roundedQuot
  omega

/-- `E1` of R110, from the rounded magnitude bits. -/
theorem roundedExp_of_normal (hm : 2 ^ 52 ≤ m) (hlt : m < 2 ^ 53) :
    roundedExp m ((k : Int) - 1074) rc s = (roundedQuot rc s (k * 2 ^ 52 + m) 29 / 2 ^ 23 : Nat) - 1023 := by
  have hbounds := roundedQuot_normal_bounds (rc := rc) (s := s) hm hlt
  rw [roundedExp, round24_of_normal hm hlt, binade_of_normal hm hlt, roundedQuot_magnitude]
  dsimp only
  split <;> omega

/-- `n1` of R110, from the rounded magnitude bits: their low 23 bits are its fraction. -/
theorem roundedSig_of_normal (hm : 2 ^ 52 ≤ m) (hlt : m < 2 ^ 53) (q : Int) :
    roundedSig m q rc s % 2 ^ 23 = roundedQuot rc s (k * 2 ^ 52 + m) 29 % 2 ^ 23 := by
  rw [roundedSig, round24_of_normal hm hlt, roundedQuot_magnitude]
  dsimp only
  split <;> omega

/-- A double-precision denormal is far below the single-precision normal numbers. -/
theorem roundedExp_of_denormal (hm : m ≠ 0) (hlt : m < 2 ^ 52) : roundedExp m (-1074) rc s < -126 := by
  have hlog : Nat.log2 m < 52 := (Nat.log2_lt hm).mpr hlt
  unfold roundedExp binade
  split <;> omega

/-! ### The sources that are rounded (R110) -/

/-- The conversion rounds a finite source other than a zero, unless `DAZ` makes a zero of it. -/
structure Rounds (x : Word64) (env : CvtEnv) : Prop where
  finite : x.extractLsb' 52 11 ≠ 2047
  nonzero : dblMag x ≠ 0
  kept : ¬ (env.daz = true ∧ x.extractLsb' 52 11 = 0)

/-- `DE`, exactly for a denormal source (R112). -/
def dblPre (x : Word64) : BitVec 6 := if dblMag x < 2 ^ 52 then flagDE else 0

/-- The magnitude bits rounded to those that single precision keeps. -/
def roundedMag (x : Word64) (env : CvtEnv) : Nat := roundedQuot env.rc x[63] (dblMag x) 29

/-- The value rounded to a multiple of `2^-149`. -/
def tinyMag (x : Word64) (env : CvtEnv) : Nat := roundedQuot env.rc x[63] (dblUnits x) 925

variable {x : Word64} {env : CvtEnv}

theorem cvt_of_rounds (h : Rounds x env) :
    cvt x env =
      cvtFinite x[63] (fieldSig 52 (dblMag x)) ((fieldScale 52 (dblMag x) : Int) - 1074) env (dblPre x) := by
  have hfin : ¬ dblExp x = 2047 := h.finite
  unfold cvt
  rw [if_neg hfin]
  by_cases hden : dblMag x < 2 ^ 52
  · have hexp : dblExp x = 0 := (dblExp_eq_zero_iff x).mpr hden
    have hfrac : ¬ (dblFrac x = 0 ∨ env.daz = true) := by
      rintro (h0 | hdaz)
      · have := (dblFrac_eq_zero_iff x).mp h0
        have := h.nonzero
        omega
      · exact h.kept ⟨hdaz, hexp⟩
    have hsig : (dblFrac x).toNat = dblMag x := (toNat_dblFrac x).trans (Nat.mod_eq_of_lt hden)
    rw [if_pos hexp, if_neg hfrac, hsig, fieldSig_of_lt hden, fieldScale_of_lt hden, dblPre, if_pos hden]
    rfl
  · have hexp : ¬ dblExp x = 0 := fun h0 => hden ((dblExp_eq_zero_iff x).mp h0)
    have hsig : 2 ^ 52 + (dblFrac x).toNat = fieldSig 52 (dblMag x) := by
      rw [fieldSig_of_le (by omega)]
      exact congrArg _ (toNat_dblFrac x)
    have hscale : ((dblExp x).toNat : Int) - 1075 = (fieldScale 52 (dblMag x) : Int) - 1074 := by
      have : (dblExp x).toNat = dblMag x / 2 ^ 52 := toNat_dblExp x
      rw [fieldScale]
      omega
    rw [if_neg hexp, hsig, hscale, dblPre, if_neg hden]
    rfl

theorem roundedMag_of_denormal (hden : dblMag x < 2 ^ 52) : roundedMag x env ≤ 2 ^ 23 :=
  roundedQuot_le (by omega)

theorem dblSig_normal (hden : ¬ dblMag x < 2 ^ 52) :
    2 ^ 52 ≤ fieldSig 52 (dblMag x) ∧ fieldSig 52 (dblMag x) < 2 ^ 53 := by
  rw [fieldSig_of_le (by omega)]
  omega

/-- Overflow and tininess in terms of the rounded magnitude bits: 1151 and 897 are the double-precision exponents
of `2^128` and `2^-126`. -/
theorem roundedExp_regimes (h : Rounds x env) :
    (roundedExp (fieldSig 52 (dblMag x)) ((fieldScale 52 (dblMag x) : Int) - 1074) env.rc x[63] > 127 ↔
      1151 * 2 ^ 23 ≤ roundedMag x env) ∧
    (roundedExp (fieldSig 52 (dblMag x)) ((fieldScale 52 (dblMag x) : Int) - 1074) env.rc x[63] < -126 ↔
      roundedMag x env < 897 * 2 ^ 23) := by
  by_cases hden : dblMag x < 2 ^ 52
  · have hlow := roundedMag_of_denormal (env := env) hden
    have hexp := roundedExp_of_denormal (rc := env.rc) (s := x[63]) h.nonzero hden
    rw [fieldSig_of_lt hden, fieldScale_of_lt hden]
    show (roundedExp (dblMag x) (-1074) env.rc x[63] > 127 ↔ _) ∧ (roundedExp (dblMag x) (-1074) env.rc x[63] < -126 ↔ _)
    omega
  · obtain ⟨hm, hlt⟩ := dblSig_normal hden
    rw [roundedExp_of_normal hm hlt, scale_mul_add_sig, ← roundedMag]
    omega

theorem dvd_dblSig (x : Word64) : 2 ^ 29 ∣ fieldSig 52 (dblMag x) ↔ 2 ^ 29 ∣ dblMag x := by
  have := scale_mul_add_sig 52 (dblMag x)
  omega

theorem dblPre_of_normal (hden : ¬ dblMag x < 2 ^ 52) : dblPre x = 0 := if_neg hden

/-- An overflowing source (R113). -/
theorem cvt_overflow (h : Rounds x env) (hov : 1151 * 2 ^ 23 ≤ roundedMag x env) :
    cvt x env = ⟨signed x[63] (overflowMag env.rc x[63]), 0, flagOE ||| peIf (env.om || decide (¬ 2 ^ 29 ∣ dblMag x))⟩ := by
  have hden : ¬ dblMag x < 2 ^ 52 := fun hd => by
    have := roundedMag_of_denormal (env := env) hd
    omega
  obtain ⟨hm, hlt⟩ := dblSig_normal hden
  rw [cvt_of_rounds h, cvtFinite, if_pos ((roundedExp_regimes h).1.mpr hov), cvtOverflow, dblPre_of_normal hden,
    round24_of_normal hm hlt]
  simp only [dvd_dblSig]

theorem ofNat_append_ofNat (a b : Nat) :
    BitVec.ofNat 8 a ++ BitVec.ofNat 23 b = BitVec.ofNat 31 (a * 2 ^ 23 + b % 2 ^ 23) := by
  apply BitVec.eq_of_toNat_eq
  rw [BitVec.toNat_append, BitVec.toNat_ofNat, BitVec.toNat_ofNat, BitVec.toNat_ofNat,
    ← Nat.shiftLeft_add_eq_or_of_lt (Nat.mod_lt _ (by decide)), Nat.shiftLeft_eq]
  omega

/-- A source with a normal result: its rounded magnitude bits, the exponent rebiased (R110). -/
theorem cvt_normal (h : Rounds x env) (hlo : 897 * 2 ^ 23 ≤ roundedMag x env)
    (hhi : roundedMag x env < 1151 * 2 ^ 23) :
    cvt x env =
      ⟨signed x[63] (BitVec.ofNat 31 (roundedMag x env - 896 * 2 ^ 23)), 0, peIf (decide (¬ 2 ^ 29 ∣ dblMag x))⟩ := by
  have hden : ¬ dblMag x < 2 ^ 52 := fun hd => by
    have := roundedMag_of_denormal (env := env) hd
    omega
  obtain ⟨hm, hlt⟩ := dblSig_normal hden
  obtain ⟨hover, htiny⟩ := roundedExp_regimes h
  rw [cvt_of_rounds h, cvtFinite, if_neg (fun h' => absurd (hover.mp h') (by omega)),
    if_neg (fun h' => absurd (htiny.mp h') (by omega)), cvtNormal, dblPre_of_normal hden, round24_of_normal hm hlt,
    roundedExp_of_normal hm hlt, ofNat_append_ofNat,
    roundedSig_of_normal (k := fieldScale 52 (dblMag x)) hm hlt, scale_mul_add_sig, ← roundedMag]
  have hmag : ((roundedMag x env / 2 ^ 23 : Nat) - 1023 + 127 : Int).toNat * 2 ^ 23 + roundedMag x env % 2 ^ 23 =
      roundedMag x env - 896 * 2 ^ 23 := by omega
  rw [hmag]
  simp only [dvd_dblSig]

/-! ### Tiny results (R114) -/

theorem dblMag_of_tiny (htiny : roundedMag x env < 897 * 2 ^ 23) : dblMag x < 897 * 2 ^ 52 := by
  by_contra hge
  have := roundedQuot_mono env.rc x[63] 29 (show 897 * 2 ^ 23 * 2 ^ 29 ≤ dblMag x by omega)
  rw [roundedQuot_mul, ← roundedMag] at this
  omega

theorem two_pow_add_dvd_mul (d k m : Nat) : 2 ^ (d + k) ∣ m * 2 ^ k ↔ 2 ^ d ∣ m := by
  rw [Nat.pow_add, Nat.mul_dvd_mul_iff_right (Nat.two_pow_pos k)]

/-- A rounding to multiples of `2^-149` rounds the value in units of `2^-1074`. -/
theorem roundInt_tiny (hlt : dblMag x < 897 * 2 ^ 52) (rc : Rounding) (s : Bool) :
    roundInt (fieldSig 52 (dblMag x)) ((fieldScale 52 (dblMag x) : Int) - 1074 + 149) rc s =
      (roundedQuot rc s (dblUnits x) 925, decide (¬ 2 ^ 925 ∣ dblUnits x)) := by
  have hscale : fieldScale 52 (dblMag x) ≤ 925 := by
    rw [fieldScale]
    omega
  obtain ⟨d, hd⟩ := Nat.exists_eq_add_of_le' hscale
  have hpow : (fieldScale 52 (dblMag x) : Int) - 1074 + 149 = -(d : Int) := by omega
  rw [hpow, roundInt_neg, hd, dblUnits, fieldValue, roundedQuot_mul_pow]
  simp only [two_pow_add_dvd_mul]

/-- The rounding to 24 bits, from the value. -/
theorem round24_inexact_dblUnits (x : Word64) (q : Int) (rc : Rounding) (s : Bool) :
    (round24 (fieldSig 52 (dblMag x)) q rc s).2 = decide (¬ 2 ^ (Nat.log2 (dblUnits x) - 23) ∣ dblUnits x) := by
  rw [round24_inexact]
  by_cases hden : dblMag x < 2 ^ 52
  · rw [dblUnits, fieldValue_of_lt hden, fieldSig_of_lt hden]
  · obtain ⟨hm, hlt⟩ := dblSig_normal hden
    have hlog : Nat.log2 (dblUnits x) = 52 + fieldScale 52 (dblMag x) := by
      have hpos := Nat.two_pow_pos (fieldScale 52 (dblMag x))
      rw [Nat.log2_eq_iff (by rw [dblUnits, fieldValue]; exact Nat.mul_ne_zero (by omega) hpos.ne'), dblUnits, fieldValue,
        Nat.add_right_comm, Nat.pow_add, Nat.pow_add _ (52 + 1)]
      exact ⟨Nat.mul_le_mul_right _ hm, Nat.mul_lt_mul_of_pos_right hlt hpos⟩
    rw [hlog, log2_of_normal hm hlt, Nat.sub_add_comm (by decide), dblUnits, fieldValue]
    simp only [two_pow_add_dvd_mul]

theorem cvt_tiny (h : Rounds x env) (htiny : roundedMag x env < 897 * 2 ^ 23) :
    cvt x env =
      if env.um = false then
        ⟨signed x[63] (BitVec.ofNat 31 (tinyMag x env)), dblPre x,
          flagUE ||| peIf (decide (¬ 2 ^ (Nat.log2 (dblUnits x) - 23) ∣ dblUnits x))⟩
      else if env.ftz = true ∧ (env.flushExact = true ∨ ¬ 2 ^ 925 ∣ dblUnits x) then
        ⟨signed x[63] 0, dblPre x, flagUE ||| flagPE⟩
      else
        ⟨signed x[63] (BitVec.ofNat 31 (tinyMag x env)), dblPre x,
          if 2 ^ 925 ∣ dblUnits x then 0 else flagUE ||| flagPE⟩ := by
  obtain ⟨hover, htiny'⟩ := roundedExp_regimes h
  rw [cvt_of_rounds h, cvtFinite, if_neg (fun h' => absurd (hover.mp h') (by omega)), if_pos (htiny'.mpr htiny), cvtTiny,
    roundInt_tiny (dblMag_of_tiny htiny), round24_inexact_dblUnits, ← tinyMag]
  simp only [Bool.not_eq_true', Bool.and_eq_true, Bool.or_eq_true, decide_eq_true_eq, ite_not]

end Sys2Proof.Machine
end

section
/-! SUPPORT. 40_conversion_numerics.md R111 to R115, R124: what the conversion detects, where overflow and underflow
begin, and which results are exact. -/

namespace Sys2Proof.Machine

variable {x : Word64} {env : CvtEnv}

/-! ### The sources that are not rounded (R110, R111, R112) -/

theorem cvt_nan (hexp : x.extractLsb' 52 11 = 2047) (hfrac : x.extractLsb' 0 52 ≠ 0) :
    cvt x env =
      ⟨signed x[63] (0xFF#8 ++ 0b1#1 ++ x.extractLsb' 29 22), if x[51] then 0 else flagIE, 0⟩ := by
  have hexp' : dblExp x = 2047 := hexp
  have hfrac' : dblFrac x ≠ 0 := hfrac
  have hkept : (dblFrac x).extractLsb' 29 22 = x.extractLsb' 29 22 := by
    apply BitVec.eq_of_toNat_eq
    simp only [dblFrac, BitVec.extractLsb'_toNat, Nat.shiftRight_eq_div_pow]
    omega
  have hquiet : (dblFrac x)[51] = x[51] := by simp [dblFrac]
  rw [cvt, if_pos hexp', if_pos hfrac', hkept, hquiet]
  rfl

theorem cvt_inf (h : dblMag x = 2047 * 2 ^ 52) : cvt x env = ⟨signed x[63] infMag, 0, 0⟩ := by
  have hexp : dblExp x = 2047 := (dblExp_eq_max_iff x).mpr h.ge
  have hfrac : ¬ dblFrac x ≠ 0 := not_not_intro ((dblFrac_eq_zero_iff x).mpr (by omega))
  rw [cvt, if_pos hexp, if_neg hfrac]
  rfl

theorem cvt_zero (h : dblMag x = 0 ∨ (env.daz = true ∧ x.extractLsb' 52 11 = 0)) :
    cvt x env = ⟨signed x[63] 0, 0, 0⟩ := by
  have hexp : dblExp x = 0 := h.elim (fun h0 => (dblExp_eq_zero_iff x).mpr (by omega)) And.right
  have hzero : dblFrac x = 0 ∨ env.daz = true := h.imp (fun h0 => (dblFrac_eq_zero_iff x).mpr (by omega)) And.left
  have hfin : ¬ dblExp x = 2047 := by
    rw [hexp]
    decide
  rw [cvt, if_neg hfin, if_pos hexp, if_pos hzero]
  rfl

/-- Every source is a NaN, an infinity, a zero (or made one by `DAZ`), or rounded. -/
theorem source_cases (x : Word64) (env : CvtEnv) :
    (x.extractLsb' 52 11 = 2047 ∧ x.extractLsb' 0 52 ≠ 0) ∨ dblMag x = 2047 * 2 ^ 52 ∨
      (dblMag x = 0 ∨ (env.daz = true ∧ x.extractLsb' 52 11 = 0)) ∨ Rounds x env := by
  by_cases hmax : x.extractLsb' 52 11 = 2047
  · by_cases hfrac : x.extractLsb' 0 52 = 0
    · have := (dblExp_eq_max_iff x).mp hmax
      have := (dblFrac_eq_zero_iff x).mp hfrac
      have := dblMag_lt x
      exact .inr (.inl (by omega))
    · exact .inl ⟨hmax, hfrac⟩
  · by_cases hzero : dblMag x = 0 ∨ (env.daz = true ∧ x.extractLsb' 52 11 = 0)
    · exact .inr (.inr (.inl hzero))
    · exact .inr (.inr (.inr ⟨hmax, fun h => hzero (.inl h), fun h => hzero (.inr h)⟩))

/-- Settles O52: the two spellings of the result differ in how the bits are grouped. -/
theorem nanConverted : Obligations.NanConverted := by
  unfold Obligations.NanConverted
  intro x env hexp hfrac
  have hassoc : (0xFF#8 ++ 0b1#1 ++ x.extractLsb' 29 22 : BitVec 31) = 0xFF#8 ++ (0b1#1 ++ x.extractLsb' 29 22) :=
    BitVec.append_assoc
  rw [cvt_nan hexp hfrac]
  exact ⟨congrArg (signed x[63]) hassoc, rfl, rfl⟩

/-! ### What a rounded source detects -/

/-- The three ways a rounded source ends: tiny, normal, overflowing. -/
theorem regime_cases (x : Word64) (env : CvtEnv) :
    roundedMag x env < 897 * 2 ^ 23 ∨ (897 * 2 ^ 23 ≤ roundedMag x env ∧ roundedMag x env < 1151 * 2 ^ 23) ∨
      1151 * 2 ^ 23 ≤ roundedMag x env := by
  omega

theorem dblPre_cases (x : Word64) : dblPre x = flagDE ∨ dblPre x = 0 := ite_eq_or_eq _ _ _

theorem dblPre_of_roundedMag (h : 897 * 2 ^ 23 ≤ roundedMag x env) : dblPre x = 0 :=
  dblPre_of_normal fun hd => by
    have := roundedMag_of_denormal (env := env) hd
    omega

theorem cvt_pre (h : Rounds x env) : (cvt x env).pre = dblPre x := by
  rcases regime_cases x env with ht | ⟨hlo, hhi⟩ | hov
  · rw [cvt_tiny h ht]
    split
    · rfl
    · split <;> rfl
  · rw [cvt_normal h hlo hhi, dblPre_of_roundedMag hlo]
  · rw [cvt_overflow h hov, dblPre_of_roundedMag (env := env) (by omega)]

theorem cvt_post_normal (h : Rounds x env) (hlo : 897 * 2 ^ 23 ≤ roundedMag x env)
    (hhi : roundedMag x env < 1151 * 2 ^ 23) :
    (cvt x env).post = if 2 ^ 29 ∣ dblMag x then 0 else flagPE := by
  rw [cvt_normal h hlo hhi]
  simp only [peIf, decide_eq_true_eq, ite_not]

theorem cvt_post_overflow (h : Rounds x env) (hov : 1151 * 2 ^ 23 ≤ roundedMag x env) :
    (cvt x env).post = if env.om = true ∨ ¬ 2 ^ 29 ∣ dblMag x then flagOE ||| flagPE else flagOE := by
  rw [cvt_overflow h hov]
  simp only [peIf, Bool.or_eq_true, decide_eq_true_eq]
  split
  · rfl
  · rfl

/-- An exact result is kept unless the two flushing bits are both set (R114; log 10). -/
theorem exact_and_kept_iff (exact : Prop) (ftz flushExact : Bool) :
    (exact ∧ (ftz = false ∨ flushExact = false)) ↔ exact ∧ ¬ (ftz = true ∧ (flushExact = true ∨ ¬ exact)) := by
  refine and_congr_right fun hexact => ?_
  cases ftz <;> cases flushExact <;> simp [hexact]

theorem cvt_post_tiny (h : Rounds x env) (ht : roundedMag x env < 897 * 2 ^ 23) :
    (cvt x env).post =
      if env.um = false then
        if 2 ^ (Nat.log2 (dblUnits x) - 23) ∣ dblUnits x then flagUE else flagUE ||| flagPE
      else if 2 ^ 925 ∣ dblUnits x ∧ (env.ftz = false ∨ env.flushExact = false) then 0
      else flagUE ||| flagPE := by
  rw [cvt_tiny h ht]
  by_cases hum : env.um = false
  · rw [if_pos hum, if_pos hum]
    simp only [peIf, decide_eq_true_eq, ite_not]
    split
    · rfl
    · rfl
  · rw [if_neg hum, if_neg hum]
    simp only [exact_and_kept_iff]
    by_cases hflush : env.ftz = true ∧ (env.flushExact = true ∨ ¬ 2 ^ 925 ∣ dblUnits x)
    · rw [if_pos hflush, if_neg fun hk => hk.2 hflush]
    · rw [if_neg hflush]
      simp only [hflush, not_false_eq_true, and_true]

/-! ### Where overflow and underflow begin (R113, R114) -/

/-- The magnitudes that round to `c` or more, for an even `c`: nearest reaches it from half a unit below, a mode that
rounds away from zero from anything above the unit before. -/
theorem le_roundedQuot_iff {c : Nat} (hc : c % 2 = 0) (rc : Rounding) (s : Bool) (mag : Nat) :
    c ≤ roundedQuot rc s mag 29 ↔
      if rc = .nearest then c * 2 ^ 29 ≤ mag + 2 ^ 28
      else if roundsAway rc s = true then c * 2 ^ 29 < mag + 2 ^ 29
      else c * 2 ^ 29 ≤ mag := by
  unfold roundedQuot
  by_cases hrc : rc = .nearest
  · subst hrc
    have hnear := increment_nearest s (mag / 2 ^ 29) (mag % 2 ^ 29) (2 ^ (29 - 1))
    rw [if_pos rfl]
    omega
  · rw [if_neg hrc]
    by_cases hlo : mag % 2 ^ 29 = 0
    · rw [hlo, increment_zero]
      split <;> omega
    · rw [increment_directed hrc s _ hlo]
      split <;> omega

theorem overflowAt_iff (rc : Rounding) (s : Bool) (mag : Nat) :
    overflowAt rc s mag ↔ 1151 * 2 ^ 23 ≤ roundedQuot rc s mag 29 := by
  rw [le_roundedQuot_iff (by decide), overflowAt]
  split
  · omega
  · split <;> omega

theorem tinyAt_iff (rc : Rounding) (s : Bool) (mag : Nat) :
    tinyAt rc s mag ↔ roundedQuot rc s mag 29 < 897 * 2 ^ 23 := by
  rw [← Nat.not_le, le_roundedQuot_iff (by decide), tinyAt]
  split
  · omega
  · split <;> omega

/-- `OE` is detected for the overflowing sources alone. -/
theorem overflow_detected_iff (hfin : x.extractLsb' 52 11 ≠ 2047) :
    (cvt x env).post &&& 0b001000 ≠ 0 ↔
      Rounds x env ∧ 1151 * 2 ^ 23 ≤ roundedMag x env := by
  rcases source_cases x env with ⟨h, _⟩ | h | h | h
  · exact absurd h hfin
  · exact absurd ((dblExp_eq_max_iff x).mpr h.ge) hfin
  · rw [cvt_zero h]
    exact iff_of_false (fun hne => hne BitVec.zero_and) fun hr => h.elim hr.1.nonzero hr.1.kept
  · rcases regime_cases x env with ht | ⟨hlo, hhi⟩ | hov
    · rw [cvt_post_tiny h ht]
      refine iff_of_false ?_ fun hr => by omega
      split <;> split <;> decide
    · rw [cvt_post_normal h hlo hhi]
      refine iff_of_false ?_ fun hr => by omega
      split <;> decide
    · rw [cvt_post_overflow h hov]
      refine iff_of_true ?_ ⟨h, hov⟩
      split <;> decide

theorem overflowMag_eq (rc : Rounding) (s : Bool) :
    overflowMag rc s = if rc = .nearest ∨ roundsAway rc s = true then 0x7F800000#31 else 0x7F7FFFFF#31 := by
  cases rc <;> cases s <;> rfl

/-- Settles O54: overflow is `2^128` or more after rounding the magnitude bits, which a zero or denormal never is. -/
theorem overflowDetected : Obligations.OverflowDetected := by
  unfold Obligations.OverflowDetected
  intro x env hfin
  rw [overflow_detected_iff hfin, overflowAt_iff]
  refine ⟨⟨And.right, fun hov => ⟨?_, hov⟩⟩, fun ⟨h, hov⟩ => ?_⟩
  · have hden : ¬ dblMag x < 2 ^ 52 := fun hd => by
      have := roundedMag_of_denormal (env := env) hd
      rw [roundedMag] at this
      omega
    exact ⟨hfin, by omega, fun hk => hden ((dblExp_eq_zero_iff x).mp hk.2)⟩
  · refine ⟨?_, ?_⟩
    · rw [cvt_post_overflow h hov]
      simp only [ne_eq, dropped_eq_zero_iff]
      rfl
    · rw [cvt_overflow h hov, overflowMag_eq]
      rfl

theorem two_pow_dvd_dblScaled (x : Word64) (k : Nat) : (2 ^ k : Int) ∣ dblScaled x ↔ 2 ^ k ∣ dblUnits x := by
  rw [← natAbs_dblScaled, ← Int.natCast_dvd, Nat.cast_pow]
  rfl

/-- `UE` is not detected for a result that is not tiny. -/
theorem underflow_not_detected (h : Rounds x env) (hlo : 897 * 2 ^ 23 ≤ roundedMag x env) :
    (cvt x env).post &&& 0b010000 = 0 := by
  rcases (show roundedMag x env < 1151 * 2 ^ 23 ∨ 1151 * 2 ^ 23 ≤ roundedMag x env by omega) with hhi | hov
  · rw [cvt_post_normal h hlo hhi]
    split <;> decide
  · rw [cvt_post_overflow h hov]
    split <;> decide

/-- Settles O55: tininess is less than `2^-126` after rounding the magnitude bits. -/
theorem underflowDetected : Obligations.UnderflowDetected := by
  unfold Obligations.UnderflowDetected
  intro x env hfin hnz hkept
  have h : Rounds x env := ⟨hfin, hnz, hkept⟩
  simp only [tinyAt_iff, two_pow_dvd_dblScaled, natAbs_dblScaled]
  rw [← roundedMag]
  refine ⟨fun hum => ?_, fun hum hftz => ?_, fun hum hftz hfe ht => ?_⟩
  · have hpost (ht : roundedMag x env < 897 * 2 ^ 23) := (cvt_post_tiny h ht).trans (if_pos hum)
    refine ⟨⟨fun hue => ?_, fun ht => ?_⟩, hpost⟩
    · by_contra ht
      exact hue (underflow_not_detected h (by omega))
    · rw [hpost ht]
      split <;> decide
  · have hpost (ht : roundedMag x env < 897 * 2 ^ 23) :
        (cvt x env).post = if 2 ^ 925 ∣ dblUnits x then 0 else 0b110000 := by
      rw [cvt_post_tiny h ht, if_neg (by simp [hum])]
      simp only [hftz, true_or, and_true]
      rfl
    refine ⟨⟨fun hue => ?_, fun ⟨ht, hdvd⟩ => ?_⟩, hpost⟩
    · by_cases ht : roundedMag x env < 897 * 2 ^ 23
      · refine ⟨ht, fun hdvd => hue ?_⟩
        rw [hpost ht, if_pos hdvd]
        rfl
      · exact absurd (underflow_not_detected h (by omega)) hue
    · rw [hpost ht, if_neg hdvd]
      decide
  · rw [cvt_tiny h ht, if_neg (by simp [hum]), if_pos ⟨hftz, .inl hfe⟩]
    exact ⟨rfl, rfl⟩

/-! ### Denormal sources (R112) -/

/-- A double-precision denormal is less than half the smallest single-precision one. -/
theorem tinyMag_of_denormal (hden : dblMag x < 2 ^ 52) (hnz : dblMag x ≠ 0) :
    tinyMag x env = (if roundsAway env.rc x[63] = true then 1 else 0) ∧ ¬ 2 ^ 925 ∣ dblUnits x := by
  have hsmall := roundedQuot_of_small (rc := env.rc) (s := x[63]) (d := 925) hden hnz (by decide)
  rwa [← fieldValue_of_lt hden] at hsmall

/-- Settles O53: such a result is tiny and inexact, and only a mode that rounds away from zero keeps it from 0. -/
theorem denormalConverted : Obligations.DenormalConverted := by
  unfold Obligations.DenormalConverted
  intro x env hexp hfrac
  refine ⟨fun hdaz => cvt_zero (.inr ⟨hdaz, hexp⟩), fun hdaz => ?_⟩
  have hden : dblMag x < 2 ^ 52 := (dblExp_eq_zero_iff x).mp hexp
  have hnz : dblMag x ≠ 0 := fun h0 => hfrac ((dblFrac_eq_zero_iff x).mpr (by omega))
  have h : Rounds x env := ⟨by rw [hexp]; decide, hnz, by simp [hdaz]⟩
  have ht : roundedMag x env < 897 * 2 ^ 23 := (roundedMag_of_denormal hden).trans_lt (by decide)
  obtain ⟨hmag, hinexact⟩ := tinyMag_of_denormal (env := env) hden hnz
  refine ⟨(cvt_pre h).trans (if_pos hden), fun hum => ⟨?_, ?_⟩⟩
  · rw [cvt_post_tiny h ht, if_neg (by simp [hum]), if_neg fun hk => hinexact hk.1]
    rfl
  · rw [cvt_tiny h ht, if_neg (by simp [hum])]
    by_cases hftz : env.ftz = true
    · rw [if_pos ⟨hftz, .inr hinexact⟩, if_neg (by simp [hftz])]
      rfl
    · rw [if_neg fun hk => hftz hk.1, hmag]
      simp only [Bool.not_eq_true] at hftz
      simp only [hftz, true_and]
      split <;> rfl

/-! ### Exact conversions (R115) -/

theorem roundedMag_of_dvd (hdvd : 2 ^ 29 ∣ dblMag x) : roundedMag x env = dblMag x / 2 ^ 29 := roundedQuot_of_dvd hdvd

/-- A multiple of `2^-149` below `2^-126` is exact at 24 bits, and stays tiny. -/
theorem roundedMag_of_exact_tiny (hlt : dblMag x < 897 * 2 ^ 52) (hnz : dblMag x ≠ 0) (hdvd : 2 ^ 925 ∣ dblUnits x) :
    ¬ dblMag x < 2 ^ 52 ∧ roundedMag x env < 897 * 2 ^ 23 := by
  have hden : ¬ dblMag x < 2 ^ 52 := fun hd => (tinyMag_of_denormal (env := env) hd hnz).2 hdvd
  refine ⟨hden, ?_⟩
  have hscale : fieldScale 52 (dblMag x) ≤ 895 := by
    rw [fieldScale]
    omega
  obtain ⟨d, hd⟩ := Nat.exists_eq_add_of_le' hscale
  have hsig : 2 ^ (d + 30) ∣ fieldSig 52 (dblMag x) := by
    rwa [show 925 = d + 30 + fieldScale 52 (dblMag x) by omega, dblUnits, fieldValue, two_pow_add_dvd_mul] at hdvd
  have hmag : 2 ^ 29 ∣ dblMag x := (dvd_dblSig x).mp ((Nat.pow_dvd_pow 2 (by omega)).trans hsig)
  rw [roundedMag_of_dvd hmag]
  omega

/-- A rounded source detects nothing exactly when it is a single-precision normal number, or a multiple of `2^-149`
below `2^-126` that is neither flushed nor unmasked. -/
theorem rounds_detects_nothing_iff (h : Rounds x env) :
    ((cvt x env).pre = 0 ∧ (cvt x env).post = 0) ↔
      (897 * 2 ^ 52 ≤ dblMag x ∧ dblMag x < 1151 * 2 ^ 52 ∧ 2 ^ 29 ∣ dblMag x) ∨
      (dblMag x < 897 * 2 ^ 52 ∧ 2 ^ 925 ∣ dblUnits x ∧ env.um = true ∧ (env.ftz = false ∨ env.flushExact = false)) := by
  rw [cvt_pre h]
  constructor
  · rintro ⟨_, hpost⟩
    rcases regime_cases x env with ht | ⟨hlo, hhi⟩ | hov
    · rw [cvt_post_tiny h ht] at hpost
      split at hpost
      · split at hpost <;> cases hpost
      · next hum =>
        split at hpost
        · next hexact => exact .inr ⟨dblMag_of_tiny ht, hexact.1, by simpa using hum, hexact.2⟩
        · cases hpost
    · rw [cvt_post_normal h hlo hhi] at hpost
      split at hpost
      · next hdvd =>
        rw [roundedMag_of_dvd hdvd] at hlo hhi
        exact .inl ⟨by omega, by omega, hdvd⟩
      · cases hpost
    · rw [cvt_post_overflow h hov] at hpost
      split at hpost <;> cases hpost
  · rintro (⟨hlo, hhi, hdvd⟩ | ⟨hlt, hdvd, hum, hkeep⟩)
    · have hmag := roundedMag_of_dvd (env := env) hdvd
      refine ⟨dblPre_of_normal (by omega), ?_⟩
      rw [cvt_post_normal h (by omega) (by omega), if_pos hdvd]
    · obtain ⟨hden, ht⟩ := roundedMag_of_exact_tiny (env := env) hlt h.nonzero hdvd
      refine ⟨dblPre_of_normal hden, ?_⟩
      rw [cvt_post_tiny h ht, if_neg (by simp [hum]), if_pos ⟨hdvd, hkeep⟩]

/-- Settles O56, class of source by class of source. -/
theorem nothingDetectedExactly : Obligations.NothingDetectedExactly := by
  unfold Obligations.NothingDetectedExactly
  intro x env
  simp only [two_pow_dvd_dblScaled, toNat_dblExp, dropped_eq_zero_iff]
  rcases source_cases x env with ⟨hexp, hfrac⟩ | hinf | hzero | h
  · have hmag := (dblExp_eq_max_iff x).mp hexp
    have hnotzero : ¬ x.extractLsb' 52 11 = 0 := by rw [hexp]; decide
    rw [cvt_nan hexp hfrac]
    cases hquiet : x[51] with
    | true => exact iff_of_true ⟨rfl, rfl⟩ (.inr (.inr (.inl ⟨hexp, .inr rfl⟩)))
    | false =>
      refine iff_of_false (fun hz => absurd (show flagIE = 0 from hz.1) (by decide)) ?_
      rintro (h0 | ⟨_, h0⟩ | ⟨_, h0 | h0⟩ | ⟨_, h0, _⟩ | ⟨h0, _⟩)
      · omega
      · exact hnotzero h0
      · exact hfrac h0
      · cases h0
      · omega
      · omega
  · have hexp := (dblExp_eq_max_iff x).mpr hinf.ge
    have hfrac := (dblFrac_eq_zero_iff x).mpr (by omega)
    rw [cvt_inf hinf]
    exact iff_of_true ⟨rfl, rfl⟩ (.inr (.inr (.inl ⟨hexp, .inl hfrac⟩)))
  · rw [cvt_zero hzero]
    exact iff_of_true ⟨rfl, rfl⟩ (hzero.imp_right .inl)
  · have hnormal : (897 ≤ dblMag x / 2 ^ 52 ∧ dblMag x / 2 ^ 52 ≤ 1150 ∧ 2 ^ 29 ∣ dblMag x) ↔
        (897 * 2 ^ 52 ≤ dblMag x ∧ dblMag x < 1151 * 2 ^ 52 ∧ 2 ^ 29 ∣ dblMag x) := by omega
    rw [rounds_detects_nothing_iff h, hnormal]
    simp only [h.nonzero, h.kept, h.finite, false_and, false_or]
    rfl

/-! ### Properties P2 to P5 (R124) -/

/-- Every result carries the source's sign. -/
theorem cvt_signed (x : Word64) (env : CvtEnv) : ∃ mag, (cvt x env).r = signed x[63] mag := by
  rcases source_cases x env with ⟨hexp, hfrac⟩ | hinf | hzero | h
  · exact ⟨_, by rw [cvt_nan hexp hfrac]⟩
  · exact ⟨_, by rw [cvt_inf hinf]⟩
  · exact ⟨_, by rw [cvt_zero hzero]⟩
  · rcases regime_cases x env with ht | ⟨hlo, hhi⟩ | hov
    · rw [cvt_tiny h ht]
      split
      · exact ⟨_, rfl⟩
      · split <;> exact ⟨_, rfl⟩
    · exact ⟨_, by rw [cvt_normal h hlo hhi]⟩
    · exact ⟨_, by rw [cvt_overflow h hov]⟩

theorem cvt_sign (x : Word64) (env : CvtEnv) : (cvt x env).r[31] = x[63] := by
  obtain ⟨mag, hr⟩ := cvt_signed x env
  rw [hr, signed_sign]

theorem cvt_pre_subset (x : Word64) (env : CvtEnv) : (cvt x env).pre &&& ~~~0b000011 = 0 := by
  rcases source_cases x env with ⟨hexp, hfrac⟩ | hinf | hzero | h
  · rw [cvt_nan hexp hfrac]
    dsimp only
    split <;> decide
  · rw [cvt_inf hinf]
    exact BitVec.zero_and
  · rw [cvt_zero hzero]
    exact BitVec.zero_and
  · rw [cvt_pre h]
    rcases dblPre_cases x with hp | hp <;> rw [hp] <;> decide

theorem cvt_post_subset (x : Word64) (env : CvtEnv) : (cvt x env).post &&& ~~~0b111000 = 0 := by
  rcases source_cases x env with ⟨hexp, hfrac⟩ | hinf | hzero | h
  · rw [cvt_nan hexp hfrac]
    exact BitVec.zero_and
  · rw [cvt_inf hinf]
    exact BitVec.zero_and
  · rw [cvt_zero hzero]
    exact BitVec.zero_and
  · rcases regime_cases x env with ht | ⟨hlo, hhi⟩ | hov
    · rw [cvt_post_tiny h ht]
      split <;> split <;> decide
    · rw [cvt_post_normal h hlo hhi]
      split <;> decide
    · rw [cvt_post_overflow h hov]
      split <;> decide

theorem toNat_keptFrac (x : Word64) : (x.extractLsb' 29 23).toNat = dblMag x / 2 ^ 29 % 2 ^ 23 := by
  rw [dblMag_eq, BitVec.extractLsb'_toNat, Nat.shiftRight_eq_div_pow]
  omega

/-- A single-precision normal number is converted to itself, its exponent rebiased (P3). -/
theorem cvt_exact_normal (hlo : 897 * 2 ^ 52 ≤ dblMag x) (hhi : dblMag x < 1151 * 2 ^ 52) (hdvd : 2 ^ 29 ∣ dblMag x) :
    cvt x env = ⟨signed x[63] (BitVec.ofNat 8 (dblMag x / 2 ^ 52 - 896) ++ x.extractLsb' 29 23), 0, 0⟩ := by
  have h : Rounds x env :=
    ⟨fun hm => by have := (dblExp_eq_max_iff x).mp hm; omega, by omega,
      fun hk => by have := (dblExp_eq_zero_iff x).mp hk.2; omega⟩
  have hmag := roundedMag_of_dvd (env := env) hdvd
  have hfrac : x.extractLsb' 29 23 = BitVec.ofNat 23 (dblMag x / 2 ^ 29) :=
    BitVec.eq_of_toNat_eq ((toNat_keptFrac x).trans (BitVec.toNat_ofNat _ _).symm)
  have hbits : dblMag x / 2 ^ 29 - 896 * 2 ^ 23 = (dblMag x / 2 ^ 52 - 896) * 2 ^ 23 + dblMag x / 2 ^ 29 % 2 ^ 23 := by
    omega
  rw [cvt_normal h (by omega) (by omega), hfrac, ofNat_append_ofNat, hmag, hbits,
    decide_eq_false (not_not_intro hdvd)]
  rfl

/-- Settles O57: each property class of source by class of source. -/
theorem conversionProperties : Obligations.ConversionProperties := by
  unfold Obligations.ConversionProperties
  intro x env
  refine ⟨cvt_pre_subset x env, cvt_post_subset x env, fun hlo hhi hdrop => ?_, fun hzero => cvt_zero (.inl hzero),
    fun hinf => cvt_inf hinf, cvt_sign x env⟩
  rw [toNat_dblExp] at hlo hhi ⊢
  exact cvt_exact_normal (by omega) (by omega) ((dropped_eq_zero_iff x).mp hdrop)

end Sys2Proof.Machine
end

section
/-! SUPPORT. 40_conversion_numerics.md R124 P6: the conversion is monotone. The magnitude of a result in each class of
source, and the order of the classes. -/

namespace Sys2Proof.Machine

variable {x y : Word64} {env : CvtEnv}

/-! ### Magnitudes of results -/

theorem two_pow_mul_eq {a b c d : Nat} (h : a + b = c + d) : 2 ^ a * 2 ^ b = 2 ^ c * 2 ^ d := by
  rw [← Nat.pow_add, ← Nat.pow_add, h]

/-- `2^-126` in units of `2^-1074`: the source with exponent 897 and the result with exponent 1. -/
theorem fieldValue_min_normal : fieldValue 52 (897 * 2 ^ 52) = 2 ^ 23 * 2 ^ 925 := by
  rw [show 897 * 2 ^ 52 = 896 * 2 ^ 52 + 2 ^ 52 by rfl, fieldValue_of_sum (le_refl _) (by decide)]
  exact two_pow_mul_eq rfl

theorem dblUnits_lt (h : dblMag x < 897 * 2 ^ 52) : dblUnits x < 2 ^ 23 * 2 ^ 925 :=
  (fieldValue_strictMono 52 h).trans_eq fieldValue_min_normal

theorem tinyMag_le (h : dblMag x < 897 * 2 ^ 52) : tinyMag x env ≤ 2 ^ 23 := roundedQuot_le (dblUnits_lt h).le

theorem sglMag_signed_ofNat (s : Bool) {g : Nat} (h : g < 2 ^ 31) : sglMag (signed s (BitVec.ofNat 31 g)) = g := by
  rw [sglMag_signed, BitVec.toNat_ofNat, Nat.mod_eq_of_lt h]

theorem sglMag_of_zero (h : dblMag x = 0 ∨ (env.daz = true ∧ x.extractLsb' 52 11 = 0)) : sglMag (cvt x env).r = 0 := by
  rw [cvt_zero h, sglMag_signed]
  rfl

theorem sglMag_of_inf (h : dblMag x = 2047 * 2 ^ 52) : sglMag (cvt x env).r = 255 * 2 ^ 23 := by
  rw [cvt_inf h, sglMag_signed]
  rfl

theorem sglMag_of_overflow (h : Rounds x env) (hov : 1151 * 2 ^ 23 ≤ roundedMag x env) :
    sglMag (cvt x env).r = (overflowMag env.rc x[63]).toNat := by
  rw [cvt_overflow h hov, sglMag_signed]

theorem sglMag_of_normal (h : Rounds x env) (hlo : 897 * 2 ^ 23 ≤ roundedMag x env)
    (hhi : roundedMag x env < 1151 * 2 ^ 23) : sglMag (cvt x env).r = roundedMag x env - 896 * 2 ^ 23 := by
  rw [cvt_normal h hlo hhi]
  exact sglMag_signed_ofNat _ (by omega)

/-- A tiny result that is not flushed. -/
theorem sglMag_of_tiny (h : Rounds x env) (ht : roundedMag x env < 897 * 2 ^ 23)
    (hkeep : env.ftz = false ∨ env.um = false) : sglMag (cvt x env).r = tinyMag x env := by
  have hmag : tinyMag x env < 2 ^ 31 := (tinyMag_le (dblMag_of_tiny ht)).trans_lt (by decide)
  rw [cvt_tiny h ht]
  split
  · exact sglMag_signed_ofNat _ hmag
  · next hum =>
    have hftz : ¬ env.ftz = true := fun hf => by
      rcases hkeep with hk | hk
      · rw [hk] at hf
        cases hf
      · exact hum hk
    rw [if_neg fun hk => hftz hk.1]
    exact sglMag_signed_ofNat _ hmag

theorem sglMag_of_flushed (h : Rounds x env) (ht : roundedMag x env < 897 * 2 ^ 23) (hftz : env.ftz = true)
    (hum : env.um = true) (hfe : env.flushExact = true) : sglMag (cvt x env).r = 0 := by
  rw [cvt_tiny h ht, if_neg (by simp [hum]), if_pos ⟨hftz, .inl hfe⟩, sglMag_signed]
  rfl

/-! ### The order of the results -/

theorem overflowMag_bounds (rc : Rounding) (s : Bool) :
    255 * 2 ^ 23 - 1 ≤ (overflowMag rc s).toNat ∧ (overflowMag rc s).toNat ≤ 255 * 2 ^ 23 := by
  cases rc <;> cases s <;> decide

/-- Flushing takes every tiny result, or none. -/
def FlushesAllOrNone (env : CvtEnv) : Prop := env.ftz = false ∨ env.um = false ∨ env.flushExact = true

theorem sglMag_tiny_le (hflush : FlushesAllOrNone env) (h : Rounds x env) (ht : roundedMag x env < 897 * 2 ^ 23) :
    sglMag (cvt x env).r ≤ 2 ^ 23 := by
  by_cases hkeep : env.ftz = false ∨ env.um = false
  · rw [sglMag_of_tiny h ht hkeep]
    exact tinyMag_le (dblMag_of_tiny ht)
  · simp only [not_or, Bool.not_eq_false] at hkeep
    have hfe : env.flushExact = true := by simpa [FlushesAllOrNone, hkeep.1, hkeep.2] using hflush
    rw [sglMag_of_flushed h ht hkeep.1 hkeep.2 hfe]
    omega

/-- Tiny results of one sign are ordered as their sources. -/
theorem sglMag_tiny_mono (hflush : FlushesAllOrNone env) (hx : Rounds x env) (hy : Rounds y env)
    (htx : roundedMag x env < 897 * 2 ^ 23) (hty : roundedMag y env < 897 * 2 ^ 23) (hsign : x[63] = y[63])
    (hle : dblMag x ≤ dblMag y) : sglMag (cvt x env).r ≤ sglMag (cvt y env).r := by
  by_cases hkeep : env.ftz = false ∨ env.um = false
  · rw [sglMag_of_tiny hx htx hkeep, sglMag_of_tiny hy hty hkeep, tinyMag, tinyMag, hsign]
    exact roundedQuot_mono _ _ _ ((fieldValue_strictMono 52).monotone hle)
  · simp only [not_or, Bool.not_eq_false] at hkeep
    have hfe : env.flushExact = true := by simpa [FlushesAllOrNone, hkeep.1, hkeep.2] using hflush
    rw [sglMag_of_flushed hx htx hkeep.1 hkeep.2 hfe]
    exact Nat.zero_le _

/-- Rounded sources of one sign: the regimes are ordered, and each is monotone. -/
theorem sglMag_rounds_mono (hflush : FlushesAllOrNone env) (hx : Rounds x env) (hy : Rounds y env)
    (hsign : x[63] = y[63]) (hle : dblMag x ≤ dblMag y) : sglMag (cvt x env).r ≤ sglMag (cvt y env).r := by
  have hround : roundedMag x env ≤ roundedMag y env := by
    rw [roundedMag, roundedMag, hsign]
    exact roundedQuot_mono _ _ _ hle
  have hover := overflowMag_bounds env.rc y[63]
  rcases regime_cases x env with htx | ⟨hlox, hhix⟩ | hovx
  · have hsmall := sglMag_tiny_le hflush hx htx
    rcases regime_cases y env with hty | ⟨hloy, hhiy⟩ | hovy
    · exact sglMag_tiny_mono hflush hx hy htx hty hsign hle
    · rw [sglMag_of_normal hy hloy hhiy]
      omega
    · rw [sglMag_of_overflow hy hovy]
      omega
  · rw [sglMag_of_normal hx hlox hhix]
    rcases (show roundedMag y env < 1151 * 2 ^ 23 ∨ 1151 * 2 ^ 23 ≤ roundedMag y env by omega) with hhiy | hovy
    · rw [sglMag_of_normal hy (by omega) hhiy]
      omega
    · rw [sglMag_of_overflow hy hovy]
      omega
  · rw [sglMag_of_overflow hx hovx, sglMag_of_overflow hy (by omega), hsign]

/-- No result of a source that is not a NaN is above infinity. -/
theorem sglMag_le_inf (hflush : FlushesAllOrNone env) (hnan : dblMag x ≤ 2047 * 2 ^ 52) :
    sglMag (cvt x env).r ≤ 255 * 2 ^ 23 := by
  rcases source_cases x env with ⟨hexp, hfrac⟩ | hinf | hzero | h
  · have := (dblExp_eq_max_iff x).mp hexp
    exact absurd ((dblFrac_eq_zero_iff x).mpr (by omega)) hfrac
  · exact (sglMag_of_inf hinf).le
  · rw [sglMag_of_zero hzero]
    omega
  · rcases regime_cases x env with ht | ⟨hlo, hhi⟩ | hov
    · exact (sglMag_tiny_le hflush h ht).trans (by decide)
    · rw [sglMag_of_normal h hlo hhi]
      omega
    · rw [sglMag_of_overflow h hov]
      exact (overflowMag_bounds _ _).2

/-- Results of one sign are ordered as their sources. -/
theorem sglMag_mono (hflush : FlushesAllOrNone env) (hsign : x[63] = y[63]) (hle : dblMag x ≤ dblMag y)
    (hnan : dblMag y ≤ 2047 * 2 ^ 52) : sglMag (cvt x env).r ≤ sglMag (cvt y env).r := by
  rcases source_cases x env with ⟨hexp, hfrac⟩ | hinf | hzero | hx
  · have := (dblExp_eq_max_iff x).mp hexp
    exact absurd ((dblFrac_eq_zero_iff x).mpr (by omega)) hfrac
  · rw [sglMag_of_inf hinf, sglMag_of_inf (show dblMag y = 2047 * 2 ^ 52 by omega)]
  · rw [sglMag_of_zero hzero]
    exact Nat.zero_le _
  · rcases source_cases y env with ⟨hexp, hfrac⟩ | hinf | hzero | hy
    · have := (dblExp_eq_max_iff y).mp hexp
      exact absurd ((dblFrac_eq_zero_iff y).mpr (by omega)) hfrac
    · rw [sglMag_of_inf hinf]
      exact sglMag_le_inf hflush (hle.trans hnan)
    · refine absurd ?_ hx.kept
      rcases hzero with h0 | ⟨hdaz, hexp⟩
      · exact absurd (show dblMag x = 0 by omega) hx.nonzero
      · have := (dblExp_eq_zero_iff y).mp hexp
        exact ⟨hdaz, (dblExp_eq_zero_iff x).mpr (by omega)⟩
    · exact sglMag_rounds_mono hflush hx hy hsign hle

theorem sglKey_cvt (x : Word64) (env : CvtEnv) :
    sglKey (cvt x env).r = if x[63] = true then -(sglMag (cvt x env).r : Int) else sglMag (cvt x env).r := by
  rw [sglKey, cvt_sign]
  rfl

/-- Settles O58: sources of one sign are ordered by their magnitudes, and of two signs by the sign. -/
theorem conversionMonotone : Obligations.ConversionMonotone := by
  unfold Obligations.ConversionMonotone
  intro x y env hx hy hflush hkey
  rw [sglKey_cvt, sglKey_cvt]
  unfold dblKey at hkey
  cases hsx : x[63] <;> cases hsy : y[63] <;> simp only [hsx, hsy, if_true, Bool.false_eq_true, if_false] at hkey ⊢
  case false.false =>
    have := sglMag_mono hflush (hsx.trans hsy.symm) (by omega) hy
    omega
  case false.true =>
    rw [sglMag_of_zero (.inl (show dblMag x = 0 by omega)), sglMag_of_zero (.inl (show dblMag y = 0 by omega))]
    rfl
  case true.false => omega
  case true.true =>
    have := sglMag_mono hflush (hsy.trans hsx.symm) (by omega) hx
    omega

end Sys2Proof.Machine
end

section
/-! SUPPORT. 40_conversion_numerics.md R102, R103, R110, R124 P7: a result that neither overflows nor is flushed is one
of the two single-precision neighbours of its source, chosen by the mode. -/

namespace Sys2Proof.Machine

/-! ### Rounding to a neighbour among rising values -/

/-- `v` is rounded between its neighbours, the values of `lo` and of `lo + 1`, which lie two times `half` apart;
`g` is the number of the one chosen. -/
def RoundsTo (value : Nat → Nat) (rc : Rounding) (s : Bool) (v g : Nat) : Prop :=
  ∃ lo rem half, rem < 2 * half ∧ v = value lo + rem ∧ value (lo + 1) = value lo + 2 * half ∧
    g = lo + increment rc s lo rem half

section Neighbours

variable {value : Nat → Nat} {rc : Rounding} {s : Bool} {v g : Nat}

/-- No value lies between two neighbours. -/
theorem neighbours_of_strictMono (hvalue : StrictMono value) (lo c : Nat) :
    value c ≤ value lo ∨ value (lo + 1) ≤ value c :=
  (Nat.lt_or_ge lo c).symm.imp (fun h => hvalue.monotone h) (fun h => hvalue.monotone h)

/-- Round to nearest: no value is nearer, and on a tie the chosen one is even. -/
theorem RoundsTo.nearest (hvalue : StrictMono value) (h : RoundsTo value .nearest s v g) (c : Nat) :
    |(value g : Int) - v| ≤ |(value c : Int) - v| ∧
    (|(value g : Int) - v| = |(value c : Int) - v| → value c ≠ value g → g % 2 = 0) := by
  obtain ⟨lo, rem, half, hrem, rfl, hnext, rfl⟩ := h
  have hc := neighbours_of_strictMono hvalue lo c
  simp only [abs_eq_max_neg]
  rcases increment_nearest s lo rem half with ⟨hi, hle, heven⟩ | ⟨hi, hle, heven⟩
  · rw [hi, Nat.add_zero]
    omega
  · rw [hi, hnext]
    omega

/-- A mode that does not round away from zero gives the greatest value not above. -/
theorem RoundsTo.floor (hvalue : StrictMono value) (h : RoundsTo value rc s v g) (hrc : rc ≠ .nearest)
    (haway : ¬ roundsAway rc s = true) : value g ≤ v ∧ ∀ c, value c ≤ v → value c ≤ value g := by
  obtain ⟨lo, rem, half, hrem, rfl, hnext, rfl⟩ := h
  have hstay : increment rc s lo rem half = 0 := by
    by_cases h0 : rem = 0
    · rw [h0, increment_zero]
    · rw [increment_directed hrc s lo h0, if_neg haway]
  rw [hstay, Nat.add_zero]
  refine ⟨by omega, fun c hcv => ?_⟩
  have := neighbours_of_strictMono hvalue lo c
  omega

/-- A mode that rounds away from zero gives the least value not below. -/
theorem RoundsTo.ceil (hvalue : StrictMono value) (h : RoundsTo value rc s v g) (haway : roundsAway rc s = true) :
    v ≤ value g ∧ ∀ c, v ≤ value c → value g ≤ value c := by
  obtain ⟨lo, rem, half, hrem, rfl, hnext, rfl⟩ := h
  by_cases h0 : rem = 0
  · rw [h0, increment_zero, Nat.add_zero, Nat.add_zero]
    exact ⟨le_refl _, fun c hc => hc⟩
  · have hrc : rc ≠ .nearest := fun hn => by
      rw [hn] at haway
      cases haway
    rw [increment_directed hrc s lo h0, if_pos haway, hnext]
    refine ⟨by omega, fun c hcv => ?_⟩
    have := neighbours_of_strictMono hvalue lo c
    omega

/-- Where the values are the multiples of `2^d`, the rounded quotient is the neighbour. -/
theorem roundsTo_roundedQuot {n d : Nat} (hd : 0 < d) (hlo : value (n / 2 ^ d) = n / 2 ^ d * 2 ^ d)
    (hnext : value (n / 2 ^ d + 1) = n / 2 ^ d * 2 ^ d + 2 ^ d) : RoundsTo value rc s n (roundedQuot rc s n d) := by
  have hhalf : 2 ^ d = 2 * 2 ^ (d - 1) := by rw [← Nat.pow_succ', Nat.succ_eq_add_one, Nat.sub_add_cancel hd]
  refine ⟨n / 2 ^ d, n % 2 ^ d, 2 ^ (d - 1), ?_, ?_, ?_, rfl⟩
  · rw [← hhalf]
    exact Nat.mod_lt _ (Nat.two_pow_pos d)
  · rw [hlo, Nat.div_add_mod']
  · rw [hnext, hlo, ← hhalf]

end Neighbours

/-! ### The conversion rounds to a neighbour -/

variable {x : Word64} {env : CvtEnv}

theorem sglUnits_of_lt {lo : Nat} (h : lo < 2 ^ 23) :
    sglUnits lo = lo * 2 ^ 925 ∧ sglUnits (lo + 1) = lo * 2 ^ 925 + 2 ^ 925 := by
  have hlo : fieldValue 23 lo = lo := fieldValue_of_lt h
  have hnext : fieldValue 23 (lo + 1) = lo + 1 := by
    rw [fieldValue_succ, hlo, fieldScale_of_lt h, Nat.pow_zero]
  exact ⟨by rw [sglUnits, hlo], by rw [sglUnits, hnext, Nat.add_mul, Nat.one_mul]⟩

/-- Below `2^-126` the neighbours are multiples of `2^-149`. -/
theorem roundsTo_tinyMag (h : dblMag x < 897 * 2 ^ 52) :
    RoundsTo sglUnits env.rc x[63] (dblUnits x) (tinyMag x env) := by
  have hlo : dblUnits x / 2 ^ 925 < 2 ^ 23 := Nat.div_lt_of_lt_mul ((dblUnits_lt h).trans_eq (Nat.mul_comm _ _))
  obtain ⟨hunits, hnext⟩ := sglUnits_of_lt hlo
  exact roundsTo_roundedQuot (by decide) hunits hnext

/-- From `2^-126` on the neighbours are the magnitude bits without their low 29, the exponent rebiased. -/
theorem roundsTo_roundedMag (h : 897 * 2 ^ 52 ≤ dblMag x) :
    RoundsTo sglUnits env.rc x[63] (dblUnits x) (roundedMag x env - 896 * 2 ^ 23) := by
  obtain ⟨hm, hlt⟩ := dblSig_normal (show ¬ dblMag x < 2 ^ 52 by omega)
  obtain ⟨k, hk⟩ := Nat.exists_eq_add_of_le' (show 896 ≤ fieldScale 52 (dblMag x) by rw [fieldScale]; omega)
  have hmag := scale_mul_add_sig 52 (dblMag x)
  have hunit : 2 ^ k * 2 ^ 925 = 2 ^ 29 * 2 ^ fieldScale 52 (dblMag x) := two_pow_mul_eq (by omega)
  have hgap : 2 ^ 29 * 2 ^ fieldScale 52 (dblMag x) = 2 * (2 ^ 28 * 2 ^ fieldScale 52 (dblMag x)) := by omega
  have hvalue : dblUnits x = fieldSig 52 (dblMag x) * 2 ^ fieldScale 52 (dblMag x) := rfl
  generalize fieldSig 52 (dblMag x) = m at *
  generalize fieldScale 52 (dblMag x) = e at *
  have hlo : dblMag x / 2 ^ 29 = 896 * 2 ^ 23 + (k * 2 ^ 23 + m / 2 ^ 29) := by omega
  have hpar : (896 * 2 ^ 23 + (k * 2 ^ 23 + m / 2 ^ 29)) % 2 = (k * 2 ^ 23 + m / 2 ^ 29) % 2 := by omega
  have hrem : dblMag x % 2 ^ 29 = m % 2 ^ 29 := by omega
  have hkept : 2 ^ 23 ≤ m / 2 ^ 29 ∧ m / 2 ^ 29 < 2 * 2 ^ 23 := by omega
  have hunits : sglUnits (k * 2 ^ 23 + m / 2 ^ 29) = m / 2 ^ 29 * 2 ^ 29 * 2 ^ e := by
    rw [sglUnits, fieldValue_of_sum hkept.1 hkept.2, Nat.mul_assoc, hunit, Nat.mul_assoc]
  refine ⟨k * 2 ^ 23 + m / 2 ^ 29, m % 2 ^ 29 * 2 ^ e, 2 ^ 28 * 2 ^ e, ?_, ?_, ?_, ?_⟩
  · rw [← Nat.mul_assoc]
    exact Nat.mul_lt_mul_of_pos_right (Nat.mod_lt _ (by decide)) (Nat.two_pow_pos e)
  · rw [hvalue, hunits, ← Nat.add_mul, Nat.div_add_mod']
  · rw [sglUnits, fieldValue_succ, (fields_of_sum hkept.1 hkept.2).1, Nat.add_mul, hunit, ← sglUnits, hgap]
  · rw [increment_mul _ _ _ _ _ (Nat.two_pow_pos e), roundedMag, roundedQuot, hrem, hlo, Nat.add_assoc,
      Nat.add_sub_cancel_left, increment_parity env.rc x[63] _ _ hpar]

/-- A source below `2^-126` that a carry makes normal gives `2^-126`, by either rounding. -/
theorem tinyMag_of_carry (hlt : dblMag x < 897 * 2 ^ 52) (hcarry : 897 * 2 ^ 23 ≤ roundedMag x env) :
    tinyMag x env = 2 ^ 23 ∧ roundedMag x env = 897 * 2 ^ 23 := by
  have hle : roundedMag x env ≤ 897 * 2 ^ 23 := roundedQuot_le (by omega)
  obtain ⟨hm, hsig⟩ := dblSig_normal (x := x) fun hd => by
    have := roundedMag_of_denormal (env := env) hd
    omega
  have hup := increment_le_one env.rc x[63] (dblMag x / 2 ^ 29) (dblMag x % 2 ^ 29) (2 ^ (29 - 1))
  rw [roundedMag, roundedQuot] at hcarry hle
  refine ⟨?_, by rw [roundedMag, roundedQuot]; omega⟩
  have hscale : fieldScale 52 (dblMag x) = 895 := by
    rw [fieldScale]
    omega
  have hmag := scale_mul_add_sig 52 (dblMag x)
  have htiny : tinyMag x env = roundedQuot env.rc x[63] (fieldSig 52 (dblMag x)) 30 := by
    rw [tinyMag, dblUnits, fieldValue, hscale]
    exact roundedQuot_mul_pow env.rc x[63] (fieldSig 52 (dblMag x)) 30 895
  rw [hscale] at hmag
  rw [htiny, roundedQuot]
  by_cases hrc : env.rc = .nearest
  · rw [hrc] at hup hcarry hle ⊢
    have h29 := increment_nearest x[63] (dblMag x / 2 ^ 29) (dblMag x % 2 ^ 29) (2 ^ (29 - 1))
    have h30 := increment_nearest x[63] (fieldSig 52 (dblMag x) / 2 ^ 30) (fieldSig 52 (dblMag x) % 2 ^ 30) (2 ^ (30 - 1))
    omega
  · rw [increment_directed hrc _ _ (by omega)]
    by_cases hlo : dblMag x % 2 ^ 29 = 0
    · rw [hlo, increment_zero] at hcarry
      omega
    · rw [increment_directed hrc _ _ hlo] at hcarry
      by_cases haway : roundsAway env.rc x[63] = true
      · rw [if_pos haway] at hcarry ⊢
        omega
      · rw [if_neg haway] at hcarry
        omega

/-- The sources P7 and the directed modes speak of: finite, neither overflowing nor made a zero by `DAZ` or `FTZ`. -/
structure Kept (x : Word64) (env : CvtEnv) : Prop where
  finite : x.extractLsb' 52 11 ≠ 2047
  notDaz : ¬ (env.daz = true ∧ x.extractLsb' 52 11 = 0)
  notFtz : env.ftz = false ∨ env.um = false
  notOverflow : (cvt x env).post &&& 0b001000 = 0

theorem roundsTo_cvt (h : Kept x env) :
    RoundsTo sglUnits env.rc x[63] (dblUnits x) (sglMag (cvt x env).r) ∧ sglMag (cvt x env).r < 255 * 2 ^ 23 := by
  by_cases hzero : dblMag x = 0
  · have hmag : tinyMag x env = 0 := by
      rw [tinyMag, dblUnits, hzero, fieldValue_of_lt (Nat.two_pow_pos _), roundedQuot_of_dvd (Nat.dvd_zero _),
        Nat.zero_div]
    rw [sglMag_of_zero (.inl hzero), ← hmag]
    exact ⟨roundsTo_tinyMag (by omega), by omega⟩
  · have hr : Rounds x env := ⟨h.finite, hzero, h.notDaz⟩
    have hhi : roundedMag x env < 1151 * 2 ^ 23 := by
      by_contra hov
      exact (overflow_detected_iff h.finite).mpr ⟨hr, by omega⟩ h.notOverflow
    rcases (show roundedMag x env < 897 * 2 ^ 23 ∨ 897 * 2 ^ 23 ≤ roundedMag x env by omega) with ht | hlo
    · have hlt := dblMag_of_tiny ht
      rw [sglMag_of_tiny hr ht h.notFtz]
      exact ⟨roundsTo_tinyMag hlt, (tinyMag_le hlt).trans_lt (by decide)⟩
    · rw [sglMag_of_normal hr hlo hhi]
      refine ⟨?_, by omega⟩
      by_cases hlt : dblMag x < 897 * 2 ^ 52
      · obtain ⟨htiny, hround⟩ := tinyMag_of_carry hlt hlo
        have hsame : roundedMag x env - 896 * 2 ^ 23 = tinyMag x env := by omega
        rw [hsame]
        exact roundsTo_tinyMag hlt
      · exact roundsTo_roundedMag (by omega)

theorem sglExp_cvt (h : Kept x env) : (cvt x env).r.extractLsb' 23 8 ≠ 255 := fun hm => by
  have := (sglExp_eq_max_iff _).mp hm
  have := (roundsTo_cvt h).2
  omega

theorem lsb_eq_false_of_even {r : Single} (h : sglMag r % 2 = 0) : r[0] = false := by
  rw [sglMag_eq] at h
  rw [← BitVec.getLsbD_eq_getElem, BitVec.getLsbD, Nat.testBit_zero]
  exact decide_eq_false (by omega)

theorem sglScaled_cvt (x : Word64) (env : CvtEnv) :
    sglScaled (cvt x env).r = (if x[63] then -1 else 1) * (sglUnits (sglMag (cvt x env).r) : Int) := by
  rw [sglScaled_eq, cvt_sign]

/-- A directed mode takes the value down exactly when it takes negative magnitudes up and others down (R102). -/
theorem roundsAway_eq_sign_iff {rc : Rounding} (hrc : rc ≠ .nearest) (s : Bool) :
    (rc = .down ∨ (rc = .zero ∧ s = false)) ↔ roundsAway rc s = s := by
  cases rc with
  | nearest => exact absurd rfl hrc
  | down => simp [roundsAway]
  | up => simp [roundsAway]
  | zero => simp [roundsAway, eq_comm]

theorem natAbs_sglScaled (r : Single) : (sglScaled r).natAbs = sglUnits (sglMag r) := by
  rw [sglScaled_eq]
  generalize sglUnits (sglMag r) = c
  cases r[31] <;> simp

/-- Settles O59: a number of the other sign is no nearer than zero. -/
theorem nearestIsNearest : Obligations.NearestIsNearest := by
  unfold Obligations.NearestIsNearest
  intro x env hfin hrc hdaz hftz hover
  have h : Kept x env := ⟨hfin, hdaz, hftz, hover⟩
  refine ⟨sglExp_cvt h, fun r _ => ?_⟩
  have hround := (roundsTo_cvt h).1
  rw [hrc] at hround
  obtain ⟨hzero, hzeroTie⟩ := hround.nearest sglUnits_strictMono 0
  obtain ⟨hr, hrTie⟩ := hround.nearest sglUnits_strictMono (sglMag r)
  have heven : sglMag (cvt x env).r % 2 = 0 → (cvt x env).r[0] = false := lsb_eq_false_of_even
  rw [sglUnits_zero] at hzero hzeroTie
  rw [← natAbs_sglScaled r] at hr hrTie
  rw [sglScaled_cvt, dblScaled_eq]
  generalize sglUnits (sglMag (cvt x env).r) = u at *
  simp only [abs_eq_max_neg] at *
  cases x[63] with
  | false =>
    simp only [Bool.false_eq_true, if_false]
    exact ⟨by omega, fun htie hne => heven (by omega)⟩
  | true =>
    simp only [if_true]
    exact ⟨by omega, fun htie hne => heven (by omega)⟩

/-- Settles O60: away from zero the least magnitude not below the source's, otherwise the greatest not above it. -/
theorem directedRoundingIsTight : Obligations.DirectedRoundingIsTight := by
  unfold Obligations.DirectedRoundingIsTight
  intro x env hfin hrc hdaz hftz hover
  have h : Kept x env := ⟨hfin, hdaz, hftz, hover⟩
  refine ⟨sglExp_cvt h, ?_⟩
  have hround := (roundsTo_cvt h).1
  rw [if_congr (roundsAway_eq_sign_iff hrc x[63]) rfl rfl, sglScaled_cvt, dblScaled_eq]
  by_cases haway : roundsAway env.rc x[63] = true
  · obtain ⟨hge, hleast⟩ := hround.ceil sglUnits_strictMono haway
    have hzero := hleast 0
    rw [sglUnits_zero] at hzero
    rw [haway]
    generalize sglUnits (sglMag (cvt x env).r) = u at *
    have hmag (r : Single) := hleast (sglMag r)
    simp only [← natAbs_sglScaled] at hmag
    cases x[63] with
    | false =>
      rw [if_neg (by decide), if_neg (by decide)]
      exact ⟨by omega, fun r _ hr => by have := hmag r; omega⟩
    | true =>
      rw [if_pos rfl, if_pos rfl]
      exact ⟨by omega, fun r _ hr => by have := hmag r; omega⟩
  · obtain ⟨hle, hgreatest⟩ := hround.floor sglUnits_strictMono hrc haway
    rw [Bool.not_eq_true] at haway
    rw [haway]
    generalize sglUnits (sglMag (cvt x env).r) = u at *
    have hmag (r : Single) := hgreatest (sglMag r)
    simp only [← natAbs_sglScaled] at hmag
    cases x[63] with
    | false =>
      rw [if_pos rfl, if_neg (by decide)]
      exact ⟨by omega, fun r _ hr => by have := hmag r; omega⟩
    | true =>
      rw [if_neg (by decide), if_pos rfl]
      exact ⟨by omega, fun r _ hr => by have := hmag r; omega⟩

end Sys2Proof.Machine
end

section
/-! SUPPORT. 41_cvtpd2ps_legacy_sse.md R140: what a completed execution without embedded rounding leaves, and the
write of the legacy SSE form. -/

namespace Sys2Proof.Machine

/-- Past R205, with both stages of R120 quiet, a form without embedded rounding writes its lanes' results and
records what it detected. -/
theorem exec_completes_plain {s : State} {i : Instr} (hready : s.ready i) (hsrc : s.sourceReadable i)
    (hq : s.quiet i) (her : erOf i = none) :
    exec i s = .next (s.completed i (dstOf s.mode i) (s.preSet i ||| s.postSet i)
      (writeOf i (s.zmmReg (dstOf s.mode i)) (s.resultsFor i s.mxcsrEnv))) := by
  obtain ⟨hpre, hpost⟩ := State.quiet_both hq
  rw [exec_readable hready hsrc, her, s.convertAndWrite_plain, if_neg (not_not_intro hpre),
    if_neg (not_not_intro hpost), s.complete_eq_completed]

/-- F-SSE delivers the conversions of its operand's two lanes, whatever the operand (R140). -/
theorem cvtpd2ps_deliversSse {s : State} {pfx : List Prefix} {reg : BitVec 3} {rm : Rm} {src : Nat → Word64}
    (hready : s.ready (.cvtpd2ps pfx reg rm)) (hsrc : s.sourceReadable (.cvtpd2ps pfx reg rm))
    (hq : s.quiet (.cvtpd2ps pfx reg rm)) (hlane : ∀ j, s.operandLane (.cvtpd2ps pfx reg rm) j = src j) :
    s.deliversSse (.cvtpd2ps pfx reg rm) (vecNum s.mode false (rexExt pfx).r reg)
      (s.preSet (.cvtpd2ps pfx reg rm) ||| s.postSet (.cvtpd2ps pfx reg rm)) src s.mxcsrEnv := by
  obtain rfl : s.operandLane (.cvtpd2ps pfx reg rm) = src := funext hlane
  obtain ⟨hresults, hzero, hkept⟩ := sseWrite_spec (s.zmmReg (vecNum s.mode false (rexExt pfx).r reg))
    (fun j => (cvt (s.operandLane (.cvtpd2ps pfx reg rm) j) s.mxcsrEnv).r)
  exact ⟨_, exec_completes_plain hready hsrc hq rfl, hresults 0 (by decide), hresults 1 (by decide), hzero, hkept⟩

/-- Settles O10: a register source is always readable, and its lanes are the register's. -/
theorem sseRegisterCompletes : Obligations.SseRegisterCompletes := by
  unfold Obligations.SseRegisterCompletes
  intro pfx reg n s hready hq
  have hsrc : s.sourceReadable (.cvtpd2ps pfx reg (.reg n)) := fun _ hp => nomatch hp
  exact cvtpd2ps_deliversSse hready hsrc hq (fun _ => rfl)

/-- Settles O11: the lanes of a memory operand are its elements. -/
theorem sseMemoryCompletes : Obligations.SseMemoryCompletes := by
  unfold Obligations.SseMemoryCompletes
  intro pfx reg a s hready hsrc hq
  exact cvtpd2ps_deliversSse hready hsrc hq (fun _ => rfl)

end Sys2Proof.Machine
end

section
/-! SUPPORT. 42_vcvtpd2ps_vex.md R150, R151, R153: what an execution that writes as the VEX and EVEX rules say
delivers, and the VEX forms with their two kinds of source. -/

namespace Sys2Proof.Machine

/-! ### The lanes of a source (R40, R165 step 4) -/

theorem State.operandLane_of_srcOf {s : State} {i : Instr} {n : BitVec 5} (h : srcOf s.mode i = some n) :
    s.operandLane i = elem64 (s.zmmReg n) := by
  funext j
  rw [State.operandLane, State.memOperand_of_srcOf h, h]

theorem State.operandLane_of_memOperand {s : State} {i : Instr} {seg : Seg} {lin : Word64} {elems : Nat}
    {align16 : Bool} (h : s.memOperand i = some ⟨seg, lin, elems, align16, false⟩) :
    s.operandLane i = s.elementAt lin := by
  funext j
  rw [State.operandLane, h]
  exact if_neg Bool.false_ne_true

/-- A register source meets every premise on a memory operand. -/
theorem State.sourceReadable_of_srcOf {s : State} {i : Instr} {n : BitVec 5} (h : srcOf s.mode i = some n) :
    s.sourceReadable i :=
  fun _ hp => absurd ((State.memOperand_of_srcOf h).symm.trans hp) (Option.some_ne_none _).symm

/-! ### Delivery (R120, R165 step 6) -/

/-- Past R205, with both stages of R120 quiet, a form that writes as R165 step 6 says delivers its lanes'
results. -/
theorem exec_delivers {s : State} {i : Instr} {z : Bool} (her : erOf i = none) (hwrite : writeOf i = evexWrite z)
    (hready : s.ready i) (hsrc : s.sourceReadable i) (hq : s.quiet i) :
    s.delivers i (dstOf s.mode i) (s.preSet i ||| s.postSet i) (vecLenOf i) z (s.operandLane i) s.mxcsrEnv := by
  have hexec := exec_completes_plain hready hsrc hq her
  rw [hwrite] at hexec
  exact ⟨_, hexec, s.evexWrite_spec i z (s.zmmReg (dstOf s.mode i)) s.mxcsrEnv⟩

/-- Embedded rounding is an EVEX form's (R73). -/
theorem erOf_of_plain {i : Instr} (h : evexOf? i = none) : erOf i = none := by
  cases i with
  | vcvtpd2psEvex512Er => cases h
  | _ => rfl

/-- Without a writemask every lane is active (R14). -/
theorem State.activeLane_of_plain {i : Instr} (h : evexOf? i = none) (s : State) (j : Nat) :
    s.activeLane i j = true := by
  rw [State.activeLane, h]

/-- Without a writemask no element is left for zeroing or merging to decide. -/
theorem State.delivers_of_plain {s : State} {i : Instr} {dst : BitVec 5} {flags : BitVec 6} {vl : VecLen} {z : Bool}
    {src : Nat → Word64} {env : CvtEnv} (h : evexOf? i = none) (hd : s.delivers i dst flags vl z src env) (z' : Bool) :
    s.delivers i dst flags vl z' src env := by
  obtain ⟨v, hexec, helem, hupper⟩ := hd
  refine ⟨v, hexec, fun j hj => (helem j hj).trans ?_, hupper⟩
  rw [if_pos (s.activeLane_of_plain h j), if_pos (s.activeLane_of_plain h j)]

/-! ### The VEX forms (R150, R151, R153) -/

/-- A VEX form delivers its lanes' results: its write is the EVEX one with zeroing. -/
theorem vex_delivers {s : State} {i : Instr} (hplain : evexOf? i = none) (hwrite : writeOf i = vexWrite)
    (hready : s.ready i) (hsrc : s.sourceReadable i) (hq : s.quiet i) :
    s.delivers i (dstOf s.mode i) (s.preSet i ||| s.postSet i) (vecLenOf i) false (s.operandLane i) s.mxcsrEnv :=
  State.delivers_of_plain hplain (exec_delivers (z := true) (erOf_of_plain hplain) hwrite hready hsrc hq) false

theorem vexRegister_delivers {s : State} {i : Instr} {n : BitVec 5} (hplain : evexOf? i = none)
    (hwrite : writeOf i = vexWrite) (hn : srcOf s.mode i = some n) (hready : s.ready i) (hq : s.quiet i) :
    s.delivers i (dstOf s.mode i) (s.preSet i ||| s.postSet i) (vecLenOf i) false (elem64 (s.zmmReg n))
      s.mxcsrEnv := by
  rw [← State.operandLane_of_srcOf hn]
  exact vex_delivers hplain hwrite hready (State.sourceReadable_of_srcOf hn) hq

theorem vexMemory_delivers {s : State} {i : Instr} {seg : Seg} {lin : Word64} {elems : Nat} {align16 : Bool}
    (hplain : evexOf? i = none) (hwrite : writeOf i = vexWrite)
    (hp : s.memOperand i = some ⟨seg, lin, elems, align16, false⟩) (hready : s.ready i)
    (hsrc : s.sourceReadable i) (hq : s.quiet i) :
    s.delivers i (dstOf s.mode i) (s.preSet i ||| s.postSet i) (vecLenOf i) false (s.elementAt lin)
      s.mxcsrEnv := by
  rw [← State.operandLane_of_memOperand hp]
  exact vex_delivers hplain hwrite hready hsrc hq

/-- Settles O12: each form and spelling is a VEX form with a register source. -/
theorem vexRegisterCompletes : Obligations.VexRegisterCompletes := by
  unfold Obligations.VexRegisterCompletes
  intro pfx v2 v3 reg n s
  refine ⟨?c5_128, ?c4_128, ?c5_256, ?c4_256⟩
  case c5_128 => rintro _ rfl; exact vexRegister_delivers rfl rfl rfl
  case c4_128 => rintro _ rfl; exact vexRegister_delivers rfl rfl rfl
  case c5_256 => rintro _ rfl; exact vexRegister_delivers rfl rfl rfl
  case c4_256 => rintro _ rfl; exact vexRegister_delivers rfl rfl rfl

/-- Settles O13: each form and spelling is a VEX form with a memory operand that is not broadcast. -/
theorem vexMemoryCompletes : Obligations.VexMemoryCompletes := by
  unfold Obligations.VexMemoryCompletes
  intro pfx v2 v3 reg a s
  refine ⟨?c5_128, ?c4_128, ?c5_256, ?c4_256⟩
  case c5_128 => rintro _ rfl; exact vexMemory_delivers rfl rfl rfl
  case c4_128 => rintro _ rfl; exact vexMemory_delivers rfl rfl rfl
  case c5_256 => rintro _ rfl; exact vexMemory_delivers rfl rfl rfl
  case c4_256 => rintro _ rfl; exact vexMemory_delivers rfl rfl rfl

end Sys2Proof.Machine
end

section
/-! SUPPORT. 43_vcvtpd2ps_evex.md R165 to R172: what an EVEX form delivers from each kind of source, what it does to
the destination above `VL/2`, and an execution without an active lane. -/

namespace Sys2Proof.Machine

/-! ### Delivery from a register, from memory, from a broadcast element (R165 to R168, R170) -/

/-- A full-width operand stands at the address whose `disp8` is scaled by the operand's bytes (R81). -/
theorem State.operandLane_of_fullWidth {s : State} {i : Instr} {pfx : List Prefix} {e : Evex} {a : Addr} {scale : Nat}
    (vl : VecLen) (hvl : vecLenOf i = vl) (hscale : vl.bits / 8 = scale)
    (h : s.memOperand i = s.evexOperand i pfx e (.mem a)) :
    s.operandLane i = s.elementAt (s.linear pfx (evexExt e) scale i.length a) := by
  subst hvl hscale
  exact State.operandLane_of_memOperand h

/-- A broadcast operand is the source of every lane (R170). -/
theorem State.operandLane_of_broadcast {s : State} {i : Instr} {seg : Seg} {lin : Word64} {elems : Nat}
    {align16 : Bool} (h : s.memOperand i = some ⟨seg, lin, elems, align16, true⟩) :
    s.operandLane i = fun _ => s.elementAt lin 0 := by
  funext j
  rw [State.operandLane, h]
  exact if_pos rfl

/-- `exec_delivers`, with the lanes given as the elements of the source. -/
theorem exec_delivers_lanes {s : State} {i : Instr} {z : Bool} {src : Nat → Word64}
    (hlane : s.operandLane i = src) (her : erOf i = none) (hwrite : writeOf i = evexWrite z)
    (hready : s.ready i) (hsrc : s.sourceReadable i) (hq : s.quiet i) :
    s.delivers i (dstOf s.mode i) (s.preSet i ||| s.postSet i) (vecLenOf i) z src s.mxcsrEnv :=
  hlane ▸ exec_delivers her hwrite hready hsrc hq

theorem exec_delivers_register {s : State} {i : Instr} {z : Bool} {n : BitVec 5} (hn : srcOf s.mode i = some n)
    (her : erOf i = none) (hwrite : writeOf i = evexWrite z) (hready : s.ready i) (hq : s.quiet i) :
    s.delivers i (dstOf s.mode i) (s.preSet i ||| s.postSet i) (vecLenOf i) z (elem64 (s.zmmReg n)) s.mxcsrEnv :=
  exec_delivers_lanes (State.operandLane_of_srcOf hn) her hwrite hready (State.sourceReadable_of_srcOf hn) hq

/-- Settles O14: each length is a form with a register source and the EVEX write. -/
theorem evexRegisterCompletes : Obligations.EvexRegisterCompletes := by
  unfold Obligations.EvexRegisterCompletes
  intro pfx e lenRes reg n s
  refine ⟨?v128, ?v256, ?v512⟩
  case v128 => rintro _ rfl; exact exec_delivers_register rfl rfl rfl
  case v256 => rintro _ rfl; exact exec_delivers_register rfl rfl rfl
  case v512 => rintro _ rfl; exact exec_delivers_register rfl rfl rfl

/-- Settles O15: the lanes are the operand's elements, at the address with `disp8` scaled by its bytes. -/
theorem evexMemoryCompletes : Obligations.EvexMemoryCompletes := by
  unfold Obligations.EvexMemoryCompletes
  intro pfx e lenRes reg a s
  refine ⟨?v128, ?v256, ?v512⟩
  case v128 => rintro _ rfl; exact exec_delivers_lanes (State.operandLane_of_fullWidth .v128 rfl rfl rfl) rfl rfl
  case v256 => rintro _ rfl; exact exec_delivers_lanes (State.operandLane_of_fullWidth .v256 rfl rfl rfl) rfl rfl
  case v512 => rintro _ rfl; exact exec_delivers_lanes (State.operandLane_of_fullWidth .v512 rfl rfl rfl) rfl rfl

/-- Settles O16: every lane is the one element, at the address with `disp8` scaled by 8. -/
theorem evexBroadcastCompletes : Obligations.EvexBroadcastCompletes := by
  unfold Obligations.EvexBroadcastCompletes
  intro pfx e lenRes reg a s
  refine ⟨?v128, ?v256, ?v512⟩
  case v128 => rintro _ rfl; exact exec_delivers_lanes (State.operandLane_of_broadcast rfl) rfl rfl
  case v256 => rintro _ rfl; exact exec_delivers_lanes (State.operandLane_of_broadcast rfl) rfl rfl
  case v512 => rintro _ rfl; exact exec_delivers_lanes (State.operandLane_of_broadcast rfl) rfl rfl

/-! ### The destination above `VL/2` (R172) -/

/-- Every EVEX form writes with its own `z`, embedded rounding or not (R165 step 6). -/
theorem writeOf_of_evex {i : Instr} {e : Evex} (h : evexOf? i = some e) : writeOf i = evexWrite e.z := by
  cases i with
  | vcvtpd2psEvex128 => cases h; rfl
  | vcvtpd2psEvex256 => cases h; rfl
  | vcvtpd2psEvex512 => cases h; rfl
  | vcvtpd2psEvex512Er => cases h; rfl
  | _ => cases h

/-- An execution that ends in an exception writes no vector register (R209). -/
theorem exec_raised_zmm {s t : State} {i : Instr} (hr : s.raised = none) (hx : exec i s = .next t)
    (ht : t.raised ≠ none) : t.zmm = s.zmm := by
  rcases exec_next_cases hx with ⟨e, rfl, _⟩ | ⟨must, may, _, rfl⟩ | ⟨flags, rs, _, rfl⟩
  · exact s.raise_zmm e
  · exact s.trapSimd_zmm must may
  · exact absurd ((s.complete_raised ..).trans hr) ht

/-- Settles O32: completion is an EVEX write of the lanes' results; an exception writes nothing. -/
theorem evexUpperBitsZeroed : Obligations.EvexUpperBitsZeroed := by
  unfold Obligations.EvexUpperBitsZeroed
  intro s t i e he hr hx
  refine ⟨fun ht => ?_, exec_raised_zmm hr hx⟩
  obtain ⟨_, flags, env, rfl⟩ := exec_completes_lanes hx ht
  rw [s.complete_zmmReg, if_pos rfl, writeOf_of_evex he]
  exact (s.evexWrite_spec i e.z _ env).2

/-! ### No lane active (R171, R44) -/

/-- An EVEX memory operand has no alignment check and at most one element for each lane (R42, R49). -/
theorem State.evexOperand_bounds {s : State} {i : Instr} {pfx : List Prefix} {e : Evex} {rm : EvexRm} {p : MemOperand}
    (h : s.evexOperand i pfx e rm = some p) : p.align16 = false ∧ p.elems ≤ (vecLenOf i).kl := by
  cases rm with
  | reg => cases h
  | mem a => cases h; exact ⟨rfl, le_rfl⟩
  | bcst a =>
    cases h
    have hkl : 1 ≤ (vecLenOf i).kl := by cases vecLenOf i <;> decide
    exact ⟨rfl, hkl⟩

theorem State.memOperand_bounds_of_evex {s : State} {i : Instr} {e : Evex} {p : MemOperand}
    (he : evexOf? i = some e) (hp : s.memOperand i = some p) : p.align16 = false ∧ p.elems ≤ (vecLenOf i).kl := by
  cases i with
  | vcvtpd2psEvex128 => exact State.evexOperand_bounds hp
  | vcvtpd2psEvex256 => exact State.evexOperand_bounds hp
  | vcvtpd2psEvex512 => exact State.evexOperand_bounds hp
  | vcvtpd2psEvex512Er => cases hp
  | _ => cases he

section
variable {s : State} {i : Instr} (hmask : ∀ j < (vecLenOf i).kl, s.activeLane i j = false)
include hmask

theorem State.anyActive_of_inactive : s.anyActive i = false := by
  rw [State.anyActive, List.any_eq_false]
  intro j hj
  rw [hmask j (List.mem_range.mp hj)]
  exact Bool.false_ne_true

/-- Fault suppression: no element has to be accessible (R44). -/
theorem State.needsElement_of_inactive {p : MemOperand} (hsup : s.cfg.evexFaultSuppression = true)
    (hle : p.elems ≤ (vecLenOf i).kl) (j : Nat) : s.needsElement i p j = false := by
  rw [State.needsElement, hsup, State.anyActive_of_inactive hmask]
  by_cases hj : j < p.elems
  · rw [hmask j (by omega), ite_self]
    exact Bool.and_false _
  · rw [decide_eq_false hj]
    exact Bool.false_and _

/-- No check of R205 steps 4 to 7 can fail. -/
theorem State.operandAccessible_of_inactive {e : Evex} {p : MemOperand} (he : evexOf? i = some e)
    (hp : s.memOperand i = some p) (hsup : s.cfg.evexFaultSuppression = true) : s.operandAccessible i p := by
  obtain ⟨halign, hle⟩ := State.memOperand_bounds_of_evex he hp
  refine ⟨fun h => ?align, fun j h => ?element, ?ac⟩
  case align => rw [halign] at h; cases h
  case element => rw [State.needsElement_of_inactive hmask hsup hle] at h; cases h
  case ac => simp only [State.alignmentChecked, State.anyActive_of_inactive hmask, Bool.and_false, Bool.false_and]

theorem unionOver_of_inactive (f : Nat → BitVec 6) {n : Nat} (hn : n ≤ (vecLenOf i).kl) :
    unionOver (s.activeLane i) f n = 0 := by
  induction n with
  | zero => rfl
  | succ n ih =>
    rw [unionOver, ih (by omega), hmask n (by omega), if_neg Bool.false_ne_true]
    exact BitVec.zero_or

/-- No lane, no condition (R120). -/
theorem State.detected_of_inactive : s.preSet i ||| s.postSet i = 0 := by
  rw [State.preSet, State.postSet, unionOver_of_inactive hmask _ le_rfl, unionOver_of_inactive hmask _ le_rfl]
  exact BitVec.zero_or

/-- With and without embedded rounding, what completes records no flag. -/
theorem exec_completes_of_inactive (hready : s.ready i) (hsrc : s.sourceReadable i) :
    ∃ env, exec i s = .next (s.completed i (dstOf s.mode i) 0
      (writeOf i (s.zmmReg (dstOf s.mode i)) (s.resultsFor i env))) := by
  cases her : erOf i with
  | some rc =>
    refine ⟨s.erEnv rc, ?_⟩
    rw [exec_readable hready hsrc, her, s.convertAndWrite_er, s.complete_eq_completed]
  | none =>
    have hnone := State.detected_of_inactive hmask
    have hq : s.quiet i := by
      rw [State.quiet, hnone]
      exact BitVec.zero_and
    exact ⟨s.mxcsrEnv, hnone ▸ exec_completes_plain hready hsrc hq her⟩

end

/-- Settles O38: without an active lane no element is needed, no condition is detected, and the write keeps or
zeroes every element. -/
theorem allZeroMaskCompletes : Obligations.AllZeroMaskCompletes := by
  unfold Obligations.AllZeroMaskCompletes
  intro s i e he hready hmask hsup hord
  have hsrc : s.sourceReadable i := fun p hp =>
    ⟨State.operandAccessible_of_inactive hmask he hp hsup, hord p hp⟩
  obtain ⟨env, hexec⟩ := exec_completes_of_inactive hmask hready hsrc
  rw [writeOf_of_evex he] at hexec
  obtain ⟨helem, hupper⟩ := s.evexWrite_spec i e.z (s.zmmReg (dstOf s.mode i)) env
  refine ⟨_, hexec, fun j hj => (helem j hj).trans ?_, hupper⟩
  rw [hmask j hj, if_neg Bool.false_ne_true]

end Sys2Proof.Machine
end

section
/-! SUPPORT. 60_exceptions.md: the order of the checks of R205, what an exception leaves and what its return
restores (R209, R210), and that the privilege level enters through memory operands only (R213). -/

namespace Sys2Proof.Machine

/-! ### Taking an exception, and the terminal outcome (R190, R209) -/

/-- IDT entries are 16 bytes wide (R209). -/
theorem State.idtEntry_of_long64 {s : State} (h : s.mode = .long64) (v : BitVec 8) :
    s.idtEntry v = some (s.idtrBase + BitVec.ofNat 64 (16 * v.toNat)) := by
  rw [State.idtEntry, if_pos h, BitVec.ofNat_mul, BitVec.ofNat_toNat]
  rfl

/-- Settles O40: the frame is `State.frame`, whose fields are the state's own. -/
theorem raiseRecordsFrame : Obligations.RaiseRecordsFrame := by
  unfold Obligations.RaiseRecordsFrame
  intro s e
  refine ⟨s.frame e, rfl, rfl, rfl, rfl, rfl, rfl, fun hmode => State.idtEntry_of_long64 hmode _, ?_, ?_⟩
  · cases e <;> rfl
  · cases e <;> rfl

/-- Settles O43: the first branch of the step. -/
theorem undeliveredExceptionIsTerminal : Obligations.UndeliveredExceptionIsTerminal := by
  unfold Obligations.UndeliveredExceptionIsTerminal
  intro s f hf
  rw [step, hf]

/-! ### The return (R210) -/

/-- Agreement of a frame with a state, field by field (R209). -/
theorem State.frameAgrees_iff (s : State) (f : Raised) :
    s.frameAgrees f = true ↔
      f.ss = s.segs.ss.selector ∧ f.rsp = s.x 4 ∧ f.rflags = s.rflags ∧ f.cs = s.segs.cs.selector ∧
        f.rip = s.rip ∧ f.gate = s.idtEntry f.vector := by
  simp only [State.frameAgrees, Bool.and_eq_true, decide_eq_true_eq, and_assoc]

theorem State.frameAgrees_frame (s : State) (e : Exn) : s.frameAgrees (s.frame e) = true :=
  (s.frameAgrees_iff _).mpr ⟨rfl, rfl, rfl, rfl, rfl, rfl⟩

/-- The return to a frame that agrees with its state only ends the pending exception (R210). -/
theorem State.iret_of_frameAgrees {s : State} {f : Raised} (hr : s.raised = some f) (hf : s.frameAgrees f = true) :
    s.iret = { s with raised := none } := by
  obtain ⟨hss, hrsp, hrflags, hcs, hrip, _⟩ := (s.frameAgrees_iff f).mp hf
  have hgpr : s.gpr.set 4 (s.x 4) = s.gpr := Vector.set_getElem_self _
  rw [State.iret, hr]
  simp only [hss, hrsp, hrflags, hcs, hrip, hgpr]

/-- Settles O41: the frame of a raise agrees with the state it leaves. -/
theorem iretRestores : Obligations.IretRestores := by
  unfold Obligations.IretRestores
  intro s e hr
  rw [State.iret_of_frameAgrees (s.raise_raised e) (s.frameAgrees_frame e), ← hr]
  cases e <;> rfl

/-! ### Steps 2 and 3 of R205 -/

/-- Settles O18: step 2 of R205, whose condition is that the form is not enabled. -/
theorem undefinedOpcodeRaised : Obligations.UndefinedOpcodeRaised := by
  unfold Obligations.UndefinedOpcodeRaised
  intro s i hlen hen
  have hud : s.udOf i = true := by rw [s.udOf_eq, hen]; rfl
  rw [exec_eq_execute, State.execute.eq_def, if_neg (by omega), if_pos hud]

/-- Settles O19: step 3 of R205, behind a `#UD` condition that does not hold. -/
theorem deviceNotAvailableRaised : Obligations.DeviceNotAvailableRaised := by
  unfold Obligations.DeviceNotAvailableRaised
  intro s i hlen hen hts
  have hud : ¬ s.udOf i = true := by simp [s.udOf_eq, hen]
  have hts' : s.ts = true := hts
  rw [exec_eq_execute, State.execute.eq_def, if_neg (by omega), if_neg hud, if_pos hts']

/-! ### Where an exception comes from (R205) -/

/-- The exception of an execution is one of R205's steps 1 to 3, one that the memory operand raises, or a SIMD
trap. -/
theorem exec_raised_cases {s t : State} {i : Instr} {f : Raised} (hr : s.raised = none) (hx : exec i s = .next t)
    (ht : t.raised = some f) :
    (∃ e, t = s.raise e ∧ f = s.frame e ∧
      (e = .gp ∨ e = .ud ∨ e = .nm ∨ ∃ p, s.memOperand i = some p ∧ s.faultOf i p = some e)) ∨
    (∃ must may, t = s.trapSimd must may ∧ f = s.frame s.simdFp) := by
  rw [exec_eq_execute] at hx
  rcases s.execute_cases i.length (s.udOf i) (s.sourceOf i) (erOf i) (dstOf s.mode i) (writeOf i) with
    ⟨_, h⟩ | ⟨_, _, h⟩ | ⟨_, _, _, h⟩ | ⟨_, _, _, ⟨e, hs, h⟩ | ⟨why, _, h⟩ | ⟨lanes, _, h⟩⟩ <;>
    rw [h] at hx <;> cases hx
  · exact .inl ⟨.gp, rfl, (Option.some.inj ht).symm, .inl rfl⟩
  · exact .inl ⟨.ud, rfl, (Option.some.inj ht).symm, .inr (.inl rfl)⟩
  · exact .inl ⟨.nm, rfl, (Option.some.inj ht).symm, .inr (.inr (.inl rfl))⟩
  · exact .inl ⟨e, rfl, (Option.some.inj ht).symm, .inr (.inr (.inr (State.faultOf_of_sourceOf_raise hs)))⟩
  · rcases s.convertAndWrite_cases i.length (erOf i) (dstOf s.mode i) (writeOf i) lanes with
      ⟨must, may, _, hend⟩ | ⟨flags, rs, hend⟩ <;> rw [hend] at ht ⊢
    · exact .inr ⟨must, may, rfl, (Option.some.inj ht).symm⟩
    · rw [State.complete_raised, hr] at ht
      cases ht

theorem State.simdFp_cases (s : State) : s.simdFp = .xm ∨ s.simdFp = .ud := ite_eq_or_eq _ _ _

/-! ### Steps 4 to 7 of R205 -/

/-- Step 4 of R205 comes before the other checks of the operand. -/
theorem State.faultOf_of_misaligned {s : State} {i : Instr} {p : MemOperand} (halign : p.align16 = true)
    (hlin : p.lin.toNat % 16 ≠ 0) : s.faultOf i p = some .gp := by
  rw [State.faultOf, State.memoryFault, if_pos (by simp [halign, hlin])]

/-- Settles O20: F-SSE's memory operand asks for step 4. -/
theorem sseMisalignedRaised : Obligations.SseMisalignedRaised := by
  unfold Obligations.SseMisalignedRaised
  intro pfx reg a s hready hlin
  exact exec_raises_faultOf hready rfl (State.faultOf_of_misaligned rfl hlin)

/-- Past steps 4 and 5 of R205 the operand raises `#AC`, or the first page fault among its needed bytes. -/
theorem State.faultOf_past_segment {s : State} {i : Instr} {p : MemOperand}
    (halign : p.align16 = true → p.lin.toNat % 16 = 0)
    (hseg : ∀ j, s.needsElement i p j = true → s.segmentOk p.lin j = true) :
    s.faultOf i p = if s.alignmentChecked i p = true then some .ac
      else (s.neededBytes p.lin 0 (s.neededOf i p)).findSome? s.pageFault := by
  have haligned : ¬ (p.align16 && decide (p.lin.toNat % 16 ≠ 0)) = true := by
    simpa only [Bool.and_eq_true, decide_eq_true_eq, not_and, not_not] using halign
  have hnone : ¬ (s.neededBytes p.lin 0 (s.neededOf i p)).any s.segmentFault = true := fun hany => by
    obtain ⟨j, _, hneed, hbad⟩ := (s.any_segmentFault p.lin (s.needsElement i p) p.elems).mp hany
    rw [hseg j hneed] at hbad
    cases hbad
  rw [State.faultOf, State.memoryFault, if_neg haligned, if_neg hnone]
  rfl

/-- A broadcast operand is one element without F-SSE's alignment (R42). -/
theorem State.memOperand_of_bcst {s : State} {i : Instr} {p : MemOperand} (hp : s.memOperand i = some p)
    (hb : p.bcst = true) : p.elems = 1 ∧ p.align16 = false := by
  rcases s.sourceOf_cases i with ⟨_, _, hq, _⟩ | ⟨q, hq, hqb, _⟩ | ⟨q, hq, _, helems, halign, _⟩
  · rw [hq] at hp; cases hp
  · obtain rfl : q = p := Option.some.inj (hq.symm.trans hp)
    rw [hb] at hqb; cases hqb
  · obtain rfl : q = p := Option.some.inj (hq.symm.trans hp)
    exact ⟨helems, halign⟩

theorem State.alignmentChecked_iff (s : State) (i : Instr) (p : MemOperand) :
    s.alignmentChecked i p = true ↔
      p.bcst = true ∧ s.anyActive i = true ∧ s.cr0[18] = true ∧ s.rflags[18] = true ∧ s.cpl = 3 ∧
        p.lin.toNat % 8 ≠ 0 := by
  simp only [State.alignmentChecked, Bool.and_eq_true, decide_eq_true_eq, and_assoc]

/-- An operand raises `#AC` for no other reason than R202's. -/
theorem State.alignmentChecked_of_faultOf_ac {s : State} {i : Instr} {p : MemOperand}
    (h : s.faultOf i p = some .ac) : s.alignmentChecked i p = true := by
  unfold State.faultOf State.memoryFault at h
  split at h
  · cases h
  · split at h
    · split at h <;> cases h
    · split at h
      · next hac => exact hac
      · obtain ⟨a, _, ha⟩ := List.exists_of_findSome?_eq_some h
        obtain ⟨fc, hpf, _⟩ := s.pageFault_some a ha
        cases hpf

/-- `#AC` alone has vector 17 (R190). -/
theorem Exn.eq_ac_of_vector {e : Exn} (h : e.vector = 17) : e = .ac := by
  cases e with
  | ac => rfl
  | _ => simp [Exn.vector] at h

/-- Settles O22: step 6 of R205 behind a segment check that passes; and of an execution's exceptions only this one
has vector 17. -/
theorem alignmentCheckRaised : Obligations.AlignmentCheckRaised := by
  unfold Obligations.AlignmentCheckRaised
  refine ⟨fun s i p hready hp hb hany ham hac hcpl hlin hseg => ?raised, fun s t i f hr hx ht hv => ?only⟩
  case raised =>
    obtain ⟨helems, halign⟩ := State.memOperand_of_bcst hp hb
    have hsegAll : ∀ j, s.needsElement i p j = true → s.segmentOk p.lin j = true := fun j hneed => by
      have hj := State.lt_elems_of_needsElement hneed
      obtain rfl : j = 0 := by omega
      exact hseg
    have hfault : s.faultOf i p = some .ac := by
      rw [State.faultOf_past_segment (fun h => by rw [halign] at h; cases h) hsegAll,
        if_pos ((s.alignmentChecked_iff i p).mpr ⟨hb, hany, ham, hac, hcpl, hlin⟩)]
    exact ⟨exec_raises_faultOf hready hp hfault, rfl⟩
  case only =>
    rcases exec_raised_cases hr hx ht with ⟨e, _, rfl, he⟩ | ⟨_, _, _, rfl⟩
    · obtain rfl := Exn.eq_ac_of_vector hv
      rcases he with he | he | he | ⟨p, hp, hfault⟩
      case inr.inr.inr =>
        exact ⟨p, hp, (s.alignmentChecked_iff i p).mp (State.alignmentChecked_of_faultOf_ac hfault)⟩
      all_goals cases he
    · have hac : s.simdFp = .ac := Exn.eq_ac_of_vector hv
      rcases s.simdFp_cases with h | h <;> rw [h] at hac <;> cases hac

/-- A search through blocks of bytes, one for each number below `n`, stops in the first block that answers. -/
theorem findSome?_flatMap_range {α β : Type} {g : α → Option β} {block : Nat → List α} {b : β} {n j : Nat}
    (hj : j < n) (hfirst : ∀ k < j, ∀ x ∈ block k, g x = none) (hb : (block j).findSome? g = some b) :
    ((List.range n).flatMap block).findSome? g = some b := by
  induction n with
  | zero => omega
  | succ n ih =>
    rw [List.range_succ, List.flatMap_append, List.findSome?_append]
    rcases Nat.lt_succ_iff_lt_or_eq.mp hj with hlt | rfl
    · rw [ih hlt]
      rfl
    · have hnone : ((List.range j).flatMap block).findSome? g = none := by
        simpa only [List.findSome?_eq_none_iff, List.mem_flatMap, List.mem_range, forall_exists_index, and_imp]
          using fun x k hk hx => hfirst k hk x hx
      rw [hnone, List.flatMap_singleton, Option.none_or, hb]

/-- Among the needed bytes, in rising order, the lowest that faults is the one found (D24; log 5). -/
theorem State.findSome_pageFault_first {s : State} {lin : Word64} {need : Nat → Bool} {n j t : Nat} {e : Exn}
    (hj : j < n) (hneed : need j = true) (ht : t < 8) (he : s.pageFault (s.byteAddr lin (8 * j + t)) = some e)
    (hfirst : ∀ j' t', need j' = true → t' < 8 → 8 * j' + t' < 8 * j + t →
      s.pageFault (s.byteAddr lin (8 * j' + t')) = none) :
    (s.neededBytes lin 0 ((List.range n).map need)).findSome? s.pageFault = some e := by
  rw [s.neededBytes_zero]
  refine findSome?_flatMap_range hj (fun k hk a ha => ?lower) ?here
  case lower =>
    cases hn : need k with
    | false => simp [hn] at ha
    | true =>
      simp only [hn, if_true, List.mem_map, List.mem_range] at ha
      obtain ⟨t', ht', rfl⟩ := ha
      exact hfirst k t' hn ht' (by omega)
  case here =>
    rw [if_pos hneed, List.map_eq_flatMap]
    refine findSome?_flatMap_range ht (fun k hk a ha => ?_) (by rw [List.findSome?_singleton, he])
    obtain rfl := List.mem_singleton.mp ha
    exact hfirst j k hneed (by omega) (by omega)

/-- Settles O23: past steps 4 to 6 of R205 the first faulting byte decides, and its fault carries its address. -/
theorem pageFaultRaised : Obligations.PageFaultRaised := by
  unfold Obligations.PageFaultRaised
  intro s i p j t e hready hp halign hseg hac hneed ht he hfirst
  have hfault : s.faultOf i p = some e := by
    rw [State.faultOf_past_segment halign hseg, if_neg (by simp [hac])]
    exact State.findSome_pageFault_first (State.lt_elems_of_needsElement hneed) hneed ht he hfirst
  obtain ⟨fc, rfl, hread, huser⟩ := s.pageFault_some _ he
  exact ⟨exec_raises_faultOf hready hp hfault, rfl, fc, rfl, hread, huser⟩

/-! ### What an exception leaves (R209) -/

/-- An exception raised in the state is no page fault, or that of a byte, with a code for a read at this
privilege level (R197). -/
theorem exn_not_pf_or_pageFault {s : State} {i : Instr} {e : Exn}
    (he : e = .gp ∨ e = .ud ∨ e = .nm ∨ ∃ p, s.memOperand i = some p ∧ s.faultOf i p = some e) :
    (∀ a fc, e ≠ .pf a fc) ∨
      ∃ a fc, e = .pf a fc ∧ s.pageFault a = some e ∧ fc[1] = false ∧ fc[2] = decide (s.cpl = 3) := by
  rcases he with rfl | rfl | rfl | ⟨p, _, hfault⟩
  case inr.inr.inr =>
    rcases State.faultOf_kinds hfault with rfl | rfl | rfl | hpf
    case inr.inr.inr => exact .inr hpf
    all_goals exact .inl (by simp)
  all_goals exact .inl (by simp)

/-- The vector of a SIMD trap (R123). -/
theorem State.simdFp_vector (s : State) : s.simdFp.vector = if s.cr4[10] then 19 else 6 := by
  have hbit : s.osxmmexcpt = s.cr4[10] := rfl
  rw [State.simdFp, hbit]
  split <;> rfl

theorem State.simdFp_ne_pf (s : State) (a : Word64) (fc : BitVec 32) : s.simdFp ≠ .pf a fc := by
  rcases s.simdFp_cases with h | h <;> simp [h]

/-- An exception other than a page fault leaves CR2 (R209) and has another vector (R190). -/
theorem Exn.not_pf {e : Exn} (h : ∀ a fc, e ≠ .pf a fc) (old : Word64) : e.cr2 old = old ∧ e.vector ≠ 14 := by
  cases e with
  | pf a fc => exact absurd rfl (h a fc)
  | _ => exact ⟨rfl, by decide⟩

/-- An exception changes no field of the state but MXCSR, CR2, the frame and the model's own counter, and the
frame is the state's own (R209). -/
theorem exec_raised_frame {s t : State} {i : Instr} {f : Raised} (hr : s.raised = none) (hx : exec i s = .next t)
    (ht : t.raised = some f) :
    t = { s with mxcsr := t.mxcsr, cr2 := t.cr2, raised := some f, freeCount := t.freeCount } ∧
      s.frameAgrees f = true := by
  rcases exec_raised_cases hr hx ht with ⟨e, rfl, rfl, _⟩ | ⟨must, may, rfl, rfl⟩
  · exact ⟨rfl, s.frameAgrees_frame e⟩
  · exact ⟨rfl, s.frameAgrees_frame s.simdFp⟩

/-- Settles O29: an exception raised in the state leaves MXCSR, and CR2 unless it is the page fault of a byte; a SIMD
trap leaves CR2 and of MXCSR all but the flags. -/
theorem exceptionLeavesState : Obligations.ExceptionLeavesState := by
  unfold Obligations.ExceptionLeavesState
  intro s t i f hr hx ht
  obtain ⟨hframe, hagrees⟩ := exec_raised_frame hr hx ht
  obtain ⟨flags, _, hmx⟩ := exec_mxcsr hx
  refine ⟨hframe, hmx ▸ mxOr_extractLsb' _ _ le_rfl 26, ?_⟩
  rcases exec_raised_cases hr hx ht with ⟨e, rfl, rfl, he⟩ | ⟨must, may, rfl, rfl⟩
  · rcases exn_not_pf_or_pageFault he with hnot | ⟨a, fc, rfl, hpf, hread, huser⟩
    · obtain ⟨hcr2, hvec⟩ := Exn.not_pf hnot s.cr2
      exact ⟨fun h => absurd rfl h, fun h => absurd hcr2 h, hagrees, legalRaise_frame s hnot, fun h => absurd h hvec⟩
    · exact ⟨fun h => absurd rfl h, fun _ => rfl, hagrees, legalRaise_pageFault s a hread huser,
        fun _ => ⟨fc, hpf, rfl⟩⟩
  · obtain ⟨hcr2, hvec⟩ := Exn.not_pf s.simdFp_ne_pf s.cr2
    exact ⟨fun _ => s.simdFp_vector, fun h => absurd hcr2 h, hagrees, legalRaise_frame s s.simdFp_ne_pf,
      fun h => absurd h hvec⟩

/-! ### The privilege level (R213) -/

/-- The selector of CS replaced, in the frame of a pending exception too; its low bits are the privilege level. -/
def State.withCsSelector (s : State) (sel : BitVec 16) : State :=
  { s with
    segs := { s.segs with cs := { s.segs.cs with selector := sel } }
    raised := s.raised.map (fun f => { f with cs := sel }) }

/-- Of the segment registers an address reads the bases (R49). -/
theorem State.segBase_withCsSelector (s : State) (sel : BitVec 16) (r : Seg) :
    (s.withCsSelector sel).segBase r = s.segBase r := by
  cases r <;> rfl

/-- A register source does not read the selector of CS; a raise copies it to the frame. -/
theorem exec_withCsSelector {s t : State} {i : Instr} (sel : BitVec 16) (hmem : s.memOperand i = none)
    (hx : exec i s = .next t) : exec i (s.withCsSelector sel) = .next (t.withCsSelector sel) := by
  have hsame : s.SameSource (s.withCsSelector sel) i :=
    ⟨rfl, rfl, rfl, s.segBase_withCsSelector sel, rfl, rfl, fun _ _ => rfl, fun _ _ _ _ _ => rfl⟩
  exact exec_transport (fun u => u.withCsSelector sel) (State.sourceOf_congr hsame fun h => absurd hmem h)
    (State.udOf_congr i rfl rfl rfl rfl rfl) rfl rfl rfl rfl rfl (fun _ => rfl) (fun _ _ => rfl) (fun _ _ => rfl) hx

/-- Settles O37: with nothing pending, replacing the selector is `State.withCsSelector`. -/
theorem privilegeLevelIrrelevant : Obligations.PrivilegeLevelIrrelevant := by
  unfold Obligations.PrivilegeLevelIrrelevant
  intro s t i sel hr hmem hx
  have hs : s.withCsSelector sel = { s with segs := { s.segs with cs := { s.segs.cs with selector := sel } } } := by
    simp only [State.withCsSelector, hr, Option.map_none]
  exact hs ▸ exec_withCsSelector sel hmem hx

/-! ### The restart (R210) -/

/-- CR2 replaced, but for a pending page fault, whose address it holds. -/
def State.withCr2 (s : State) (c : Word64) : State :=
  if s.raised.map (·.vector) = some 14 then s else { s with cr2 := c }

theorem State.withCr2_self (s : State) : s.withCr2 s.cr2 = s := by
  unfold State.withCr2
  split <;> rfl

/-- A page fault loads CR2, whatever it held; every other exception leaves it. -/
theorem State.raise_withCr2 (s : State) (c : Word64) (e : Exn) :
    State.raise { s with cr2 := c } e = (s.raise e).withCr2 c := by
  cases e <;> rfl

/-- An execution does not read CR2 (R209). -/
theorem exec_withCr2 {s t : State} {i : Instr} (hr : s.raised = none) (c : Word64) (hx : exec i s = .next t) :
    exec i { s with cr2 := c } = .next (t.withCr2 c) := by
  have hsame : s.SameSource { s with cr2 := c } i :=
    ⟨rfl, rfl, rfl, fun _ => rfl, rfl, rfl, fun _ _ => rfl, fun _ _ _ _ _ => rfl⟩
  refine exec_transport (fun u => u.withCr2 c) (State.sourceOf_congr hsame fun _ => ⟨rfl, rfl⟩)
    (State.udOf_congr i rfl rfl rfl rfl rfl) rfl rfl rfl rfl rfl (s.raise_withCr2 c) (fun must may => ?trap)
    (fun flags v => ?complete) hx
  case trap =>
    exact State.raise_withCr2
      { s with mxcsr := (s.trapSimd must may).mxcsr, freeCount := (s.trapSimd must may).freeCount } c s.simdFp
  case complete =>
    rw [State.withCr2, State.complete_raised, hr, if_neg (by simp)]
    rfl

/-- Under `PrePost` no free value is used (R120; log 9). -/
theorem exec_freeCount_of_prePost {s t : State} {i : Instr} (hpolicy : s.cfg.xmPolicy = .prePost)
    (hx : exec i s = .next t) : t.freeCount = s.freeCount := by
  rcases exec_raises_or_converts hx with ⟨e, rfl⟩ | ⟨_, rfl⟩
  · rfl
  · cases erOf i with
    | some rc => rw [s.convertAndWrite_er]; rfl
    | none =>
      rw [s.convertAndWrite_plain, hpolicy]
      split
      · rw [State.trapSimd_freeCount, if_pos rfl]
      · split
        · rw [State.trapSimd_freeCount, if_pos rfl]
        · rfl

theorem mxOr_idem (v : BitVec 32) (flags : BitVec 6) : mxOr (mxOr v flags) flags = mxOr v flags := by
  rw [mxOr, mxOr, BitVec.or_assoc, BitVec.or_self]

/-- The return from an exception under `PrePost` restores the state before it but for MXCSR's flags and CR2 (R210). -/
theorem iret_of_exec_raised {s t : State} {i : Instr} {f : Raised} (hr : s.raised = none)
    (hpolicy : s.cfg.xmPolicy = .prePost) (hx : exec i s = .next t) (ht : t.raised = some f) :
    t.iret = { s with mxcsr := t.mxcsr, cr2 := t.cr2 } := by
  obtain ⟨hframe, hagrees⟩ := exec_raised_frame hr hx ht
  have hagrees' : t.frameAgrees f = true := by rw [hframe]; exact hagrees
  rw [State.iret_of_frameAgrees ht hagrees', hframe, exec_freeCount_of_prePost hpolicy hx, ← hr]

/-- Settles O42: flags that the first execution set decide nothing and are set again, and CR2 is not read. -/
theorem restartFaultsAgain : Obligations.RestartFaultsAgain := by
  unfold Obligations.RestartFaultsAgain
  intro s t i f hr hpolicy hx ht
  obtain ⟨flags, _, hmx⟩ := exec_mxcsr hx
  obtain ⟨_, _, _, hsticky⟩ := mxcsrFlagsSticky s t i hx
  have hflags : exec i { s with mxcsr := t.mxcsr } = .next t := by
    have hagain : exec i { s with mxcsr := mxOr s.mxcsr flags } = .next { t with mxcsr := mxOr t.mxcsr flags } :=
      hsticky flags
    have hidem : mxOr t.mxcsr flags = t.mxcsr := by rw [hmx, mxOr_idem]
    rwa [hidem, ← hmx] at hagain
  have hcr2 := exec_withCr2 (s := { s with mxcsr := t.mxcsr }) hr t.cr2 hflags
  rw [iret_of_exec_raised hr hpolicy hx ht]
  rwa [t.withCr2_self] at hcr2

end Sys2Proof.Machine
end

section
/-! SUPPORT. 70_reset_and_hazards.md: what INIT keeps (R230), and the launch state of section 2 with a table word at its
program counter (R233; log 2). -/

namespace Sys2Proof.Machine

/-! ### INIT (R230) -/

/-- INIT leaves the mode of RESET: it keeps none of the registers that the mode is read from. -/
theorem State.afterInit_mode (s : State) : s.afterInit.mode = .real := by
  obtain ⟨_, _, _, _, _, _, hmode, _⟩ := resetLeaves
  exact hmode

/-- Settles O45: `State.afterInit` is the reset state with the kept registers put back. -/
theorem initKeepsVectors : Obligations.InitKeepsVectors := by
  unfold Obligations.InitKeepsVectors
  intro s
  exact ⟨rfl, rfl, rfl, rfl, rfl, rfl, rfl, rfl, rfl, s.afterInit_mode, rfl⟩

/-! ### Reading after a store of several bytes (R48, R233) -/

/-- A store of several bytes leaves every byte at another address alone. -/
theorem Memory.readByte_writeBytes_other (m : Memory) {l : List (Nat × Byte)} {y : Nat} (h : ∀ c ∈ l, y ≠ c.1) :
    Memory.readByte (Memory.writeBytes m l) y = Memory.readByte m y := by
  induction l generalizing m with
  | nil => rfl
  | cons c l ih =>
    rw [List.forall_mem_cons] at h
    obtain ⟨hc, hl⟩ := h
    exact (ih (Memory.writeByte m c.1 c.2) hl).trans (Memory.readByte_writeByte_other m hc c.2)

/-- After a store of several bytes at different addresses, each is read where it was put. -/
theorem Memory.readByte_writeBytes_mem {m : Memory} (hm : Memory.wf m = true) {l : List (Nat × Byte)}
    (hlt : ∀ c ∈ l, c.1 < 2 ^ 64) (hne : l.Pairwise fun c d => c.1 ≠ d.1) {c : Nat × Byte} (hc : c ∈ l) :
    Memory.readByte (Memory.writeBytes m l) c.1 = c.2 := by
  induction l generalizing m with
  | nil => cases hc
  | cons d l ih =>
    rw [List.forall_mem_cons] at hlt
    rw [List.pairwise_cons] at hne
    obtain ⟨hd, hl⟩ := hlt
    obtain ⟨hdl, hll⟩ := hne
    cases hc with
    | head =>
      exact (Memory.readByte_writeBytes_other _ hdl).trans (Memory.readByte_writeByte_same hm c.1 c.2)
    | tail _ hc => exact ih (Memory.wf_writeByte hm hd d.2) hl hll hc

/-! ### The fetch after a load at the program counter -/

/-- In 64-bit mode the fetch has no base and wraps at 64 bits (R22). -/
theorem State.fetchAddr_long64 {s : State} (h : s.mode = .long64) (t : Nat) :
    s.fetchAddr t = s.rip + BitVec.ofNat 64 t := by
  simp only [State.fetchAddr, h, truncMode_long64, if_true, zero_add]

/-- The bytes of a fetch lie at different addresses: the pc wraps only after 2^64 of them. -/
theorem State.fetchAddr_ne {s : State} (h : s.mode = .long64) {t u : Nat} (ht : t < u) (hu : u < 2 ^ 64) :
    (s.fetchAddr t).toNat ≠ (s.fetchAddr u).toNat := by
  rw [State.fetchAddr_long64 h, State.fetchAddr_long64 h]
  simp only [BitVec.toNat_add, BitVec.toNat_ofNat]
  omega

/-- A load leaves the addresses of the fetch as they were. -/
@[simp] theorem State.loadAtRip_fetchAddr (s : State) (bytes : List Byte) (t : Nat) :
    (s.loadAtRip bytes).fetchAddr t = s.fetchAddr t := rfl

/-- Fifteen bytes loaded at the program counter are the ones fetched there. -/
theorem State.loadAtRip_fetchBytes {s : State} {bytes : List Byte} (hm : Memory.wf s.mem = true)
    (hmode : s.mode = .long64) (hlen : bytes.length = 15) : (s.loadAtRip bytes).fetchBytes = bytes := by
  have hlt : ∀ c ∈ bytes.mapIdx (fun t v => ((s.fetchAddr t).toNat, v)), c.1 < 2 ^ 64 := by
    intro c hc
    obtain ⟨t, _, rfl⟩ := List.mem_mapIdx.mp hc
    exact (s.fetchAddr t).isLt
  have hne : (bytes.mapIdx (fun t v => ((s.fetchAddr t).toNat, v))).Pairwise fun c d => c.1 ≠ d.1 := by
    rw [List.pairwise_iff_getElem]
    intro t u _ hu htu
    rw [List.length_mapIdx] at hu
    simpa only [List.getElem_mapIdx] using State.fetchAddr_ne hmode htu (by omega)
  refine List.ext_getElem (by rw [State.fetchBytes, List.length_map, List.length_range, hlen]) fun t _ ht => ?_
  simp only [State.fetchBytes, List.getElem_map, List.getElem_range, State.loadAtRip_fetchAddr]
  exact Memory.readByte_writeBytes_mem hm hlt hne (List.mem_mapIdx.mpr ⟨t, ht, rfl⟩)

/-- A load of at most `n` bytes changes no byte but the first `n` of the fetch. -/
theorem State.loadAtRip_readByte_other {s : State} {bytes : List Byte} {n a : Nat} (hlen : bytes.length ≤ n)
    (ha : ∀ t < n, a ≠ (s.fetchAddr t).toNat) :
    Memory.readByte (s.loadAtRip bytes).mem a = Memory.readByte s.mem a := by
  refine Memory.readByte_writeBytes_other _ fun c hc => ?_
  obtain ⟨t, ht, rfl⟩ := List.mem_mapIdx.mp hc
  exact ha t (by omega)

/-! ### The launch state (R232 step 1; log 2) -/

/-- The mode's three bits are set (log 6). -/
theorem State.enterLong64_mode (s : State) : s.enterLong64.mode = .long64 := by
  simp [State.mode, State.enterLong64, State.pe, State.lma]

/-- Choosing a pc for a load changes the pc alone. -/
theorem State.fetchablePc_eq (s : State) :
    s.fetchablePc = { s with rip := if s.nonCanonicalFetch 15 then 0 else s.rip } := by
  rw [State.fetchablePc]
  split <;> rfl

@[simp] theorem State.fetchablePc_mode (s : State) : s.fetchablePc.mode = s.mode := by
  rw [s.fetchablePc_eq]; rfl

@[simp] theorem State.fetchablePc_raised (s : State) : s.fetchablePc.raised = s.raised := by
  rw [s.fetchablePc_eq]

@[simp] theorem State.fetchablePc_mem (s : State) : s.fetchablePc.mem = s.mem := by
  rw [s.fetchablePc_eq]

/-- A pc at which 15 bytes can be fetched is kept. -/
theorem State.fetchablePc_of_fetchable {s : State} (h : s.fetchable 15) : s.fetchablePc = s := by
  rw [State.fetchablePc, (s.nonCanonicalFetch_eq_false_iff 15).mpr h]
  rfl

/-! ### A table word at the program counter (log 2) -/

/-- A table word stands for 15 bytes, the most an instruction may have (R88). -/
@[simp] theorem tableBytes_length (nbits w : Nat) : (tableBytes nbits w).length = 15 := by
  rw [tableBytes]
  split <;> simp

/-- Settles O7: the word's 15 bytes are loaded at 15 different addresses of a 64-bit fetch. -/
theorem loadedWordIsFetched : Obligations.LoadedWordIsFetched := by
  unfold Obligations.LoadedWordIsFetched
  intro s nbits w hm
  have hmode : s.enterLong64.fetchablePc.mode = .long64 := (State.fetchablePc_mode _).trans s.enterLong64_mode
  have hmem : s.enterLong64.fetchablePc.mem = s.mem := State.fetchablePc_mem _
  refine ⟨?bytes, hmode, State.fetchablePc_raised _, State.fetchablePc_fetchable _, ?rip, ?frame⟩
  case bytes => exact State.loadAtRip_fetchBytes (hmem ▸ hm) hmode (tableBytes_length nbits w)
  case rip =>
    intro hf
    have hkept : s.enterLong64.fetchablePc.rip = s.enterLong64.rip := by rw [State.fetchablePc_of_fetchable hf]
    exact hkept
  case frame =>
    intro a ha
    rw [← hmem]
    exact State.loadAtRip_readByte_other (tableBytes_length nbits w).le ha

end Sys2Proof.Machine
end
